-- ==== Sys2Proof/Word.lean ====
section
/-! DEFINITION. The word types of the block (spec/00_scope.md R7, R8). All values are unsigned. -/

namespace Sys2Proof

/-- A byte: 8 bits (R7). -/
abbrev Byte := BitVec 8

/-- A 16-bit quantity: register address, payload value, CRC (R7, R16). -/
abbrev Half := BitVec 16

/-- An opaque completion handle (R16, D3): its width HANDLE_W is OPEN, so it is a number, and
`Config.handleFits` says whether it has the configured width. DESIGN CHOICE, log 3. -/
abbrev Handle := Nat

end Sys2Proof
end

