-- ==== Sys2Proof/Config.lean ====
section
/-! DEFINITION. The configuration record of spec/00_scope.md R6: what the source leaves to the
caller. It is fixed before a run and does not change in it (spec/70_reset_and_hazards.md R176). -/

namespace Sys2Proof

/-- The nine parameters of R6. `none` is "unbounded" or "OPEN". -/
structure Config where
  /-- DEV_ADDR_DEFAULT -/
  devAddrDefault : Byte
  /-- KA_FUNC, function code byte of the keepalive probe -/
  kaFunc : Byte
  /-- KA_REG, register field of the keepalive probe -/
  kaReg : Half
  /-- KA_VALUE, fourth and fifth payload bytes of the keepalive probe -/
  kaValue : Half
  /-- RXBUF_CAP, capacity of the Receive Buffer in bytes -/
  rxBufCap : Option Nat
  /-- QUEUE_CAP, capacity of the Pending Queue in Commands -/
  queueCap : Option Nat
  /-- HANDLE_W, width of the completion handle in bits -/
  handleW : Option Nat
  /-- KA_INTERVAL_W, width of the keepalive interval in bits -/
  kaIntervalW : Nat
  /-- TICK_MS, milliseconds of real time one TICK event stands for -/
  tickMs : Nat
  deriving DecidableEq, Repr

/-- The default values of R6. -/
def Config.default : Config where
  devAddrDefault := 0x01
  kaFunc := 0x03
  kaReg := 0xFD00
  kaValue := 0x0001
  rxBufCap := none
  queueCap := none
  handleW := none
  kaIntervalW := 32
  tickMs := 1

end Sys2Proof
end

