-- ==== Sys2Proof/Syntax.lean ====
section
/-! DEFINITION. The operations and frames of spec/opcode_table.json as one inductive, with the
values they take as operands (spec/30_encoding.md R60 to R73, spec/10_state.md R16,
spec/00_scope.md R9), and what the environment can present to the block. -/

namespace Sys2Proof

/-- The function kind of a Command (spec/10_state.md R16). -/
inductive CmdKind where
  | read
  | write
  | probe
  deriving DecidableEq, Repr

/-- Who owns a Command (R16): a caller, by its handle, or the keepalive scheduler. -/
inductive Origin where
  | caller (h : Handle)
  | keepalive
  deriving DecidableEq, Repr

/-- The error names of spec/60_exceptions.md R151. Only the first two are ever delivered. -/
inductive ErrCode where
  | transportUnavailable
  | linkClosed
  | timeout
  | crcError
  | malformedFrame
  deriving DecidableEq, Repr

/-- The outcome of a Command: `Ok(v)` or `Err(e)` (spec/00_scope.md R9). -/
inductive CmdOutcome where
  | ok (v : Nat)
  | err (e : ErrCode)
  deriving DecidableEq, Repr

/-- The decoded form of one valid inbound frame (spec/41_codec.md R94). -/
structure Message where
  address : Byte
  function : Byte
  value : Nat
  crc : Half
  deriving DecidableEq, Repr

/-- One constructor per row of spec/opcode_table.json. -/
inductive Instr where
  -- frames, outbound: the CRC is computed from the other fields (R61, R62, R69)
  | rdreq (addr : Byte) (reg : Half)
  | wrreq (addr : Byte) (reg value : Half)
  | probe (addr func : Byte) (reg value : Half)
  -- frames, inbound: the CRC is what arrived, right or wrong (R63, R64)
  | rdrsp (addr : Byte) (data : List Byte) (crc : Half)
  | wrrsp (addr : Byte) (reg value crc : Half)
  -- events (R70, R71)
  | reset
  | connect (addr : Byte)
  | disconnect
  | transportFail
  | read (reg : Half) (h : Handle)
  | write (reg value : Half) (h : Handle)
  | kaStart (interval : Nat) (observer : Bool)
  | kaStop
  | rx (chunk : List Byte)
  | tick
  -- internal operations (R70): no code, invoked by other operations
  | crc (bytes : List Byte)
  | encRd (addr : Byte) (reg : Half)
  | encWr (addr : Byte) (reg value : Half)
  | encProbe (addr : Byte)
  | decode (buf : List Byte)
  | submit (frame : List Byte) (kind : CmdKind) (reg value : Half) (origin : Origin)
  | deliver (origin : Origin) (outcome : CmdOutcome)
  | transmit
  | onMessage (m : Message)
  | kaFire
  | kaDone (outcome : CmdOutcome)
  deriving DecidableEq, Repr

/-- Where an encoded instruction appears: an operation word at the operation port (R71), a frame
arriving on the line (R63, R64), a frame sent on the line (R61, R62, R69). Direction is not encoded
in a frame (R67); the port says it. -/
inductive Port where
  | operation
  | inbound
  | outbound
  deriving DecidableEq, Repr

/-- One thing the environment presents to the block (log 1): bits on a port, or an operation named
directly ("a model may ignore the codes", R71). -/
inductive Input where
  | bits (p : Port) (bs : List Byte)
  | named (i : Instr)
  deriving DecidableEq, Repr

/-- Why bits are no instruction, or an input is none the block can be given. -/
inductive Reject where
  /-- an operation word with a reserved code 0xA to 0xF (R71, R159 c) -/
  | reservedOpCode (op : Nat)
  /-- an operation word of no bytes (the model's own, log 14) -/
  | emptyOpWord
  /-- an operation word with bits set or bytes present beyond its operands (the model's own, log 14) -/
  | surplusOperandBits
  /-- a byte sequence that is none of the outbound formats (R61, R62, R69) -/
  | notAnOutboundFrame
  /-- an internal operation presented from outside (R159 e) -/
  | notFromOutside
  /-- an operand outside its width, such as a handle wider than HANDLE_W (log 14) -/
  | illFormed
  deriving DecidableEq, Repr

/-- What decoding answers: total, an instruction or a named rejection. -/
inductive Decoded where
  | instr (i : Instr)
  | reject (r : Reject)
  deriving DecidableEq, Repr

/-- The port an instruction's bits appear on; internal operations have no code (R71). -/
def Instr.port : Instr → Option Port
  | .rdreq .. | .wrreq .. | .probe .. => some .outbound
  | .rdrsp .. | .wrrsp .. => some .inbound
  | .reset | .connect _ | .disconnect | .transportFail | .read .. | .write .. | .kaStart ..
  | .kaStop | .rx _ | .tick => some .operation
  | .crc _ | .encRd .. | .encWr .. | .encProbe _ | .decode _ | .submit .. | .deliver .. | .transmit
  | .onMessage _ | .kaFire | .kaDone _ => none

/-- What may be presented to the block: the ten events, frames arriving on the line, and frames to be
built; no internal operation (R159 e, log 9). -/
def Instr.fromOutside (i : Instr) : Bool := i.port.isSome

end Sys2Proof
end

