-- ==== Sys2Proof/Machine/Operands.lean ====
section
/-! DEFINITION. The operand forms: splitting and joining 16-bit fields, byte sequences as
big-endian numbers, reads of a byte sequence (spec/00_scope.md R7, R8; spec/30_encoding.md R65),
and the numbers of the outcome port (spec/60_exceptions.md R151). -/

namespace Sys2Proof.Machine

/-- `hi8(v) = v[15:8]` (R7). -/
def hi8 (v : Half) : Byte := v.extractLsb' 8 8

/-- `lo8(v) = v[7:0]` (R7). -/
def lo8 (v : Half) : Byte := v.extractLsb' 0 8

/-- `{a, b}`: two bytes joined, `a` in the upper bits (R7). -/
def join (a b : Byte) : Half := a ++ b

/-- `swap16(v) = {v[7:0], v[15:8]}` (R7). -/
def swap16 (v : Half) : Half := join (lo8 v) (hi8 v)

/-- `be(s)`: the big-endian number of a byte sequence, exact in the natural numbers (R8). -/
def be (s : List Byte) : Nat := s.foldl (fun acc b => acc * 256 + b.toNat) 0

/-- `s[i]` (R8); every rule tests the length first, so the 0 past the end is never used (R41 b). -/
def byteAt (s : List Byte) (i : Nat) : Byte := s.getD i 0

/-- `s[a..b)` (R8). -/
def slice (s : List Byte) (a b : Nat) : List Byte := (s.take b).drop a

/-- `MemRead(addr, n)`: the number of `n` bytes of the Receive Buffer from index `addr` (R8). -/
def memRead (buf : List Byte) (addr n : Nat) : Nat := be (slice buf addr (addr + n))

/-- A 16-bit field as its two bytes, the more significant first (R46, R65). -/
def halfBytes (v : Half) : List Byte := [hi8 v, lo8 v]

/-- The bytes of a number, most significant first, none for 0, as far as the fuel goes. -/
def natBytesFuel : Nat → Nat → List Byte
  | 0, _ => []
  | fuel + 1, n =>
    if n = 0 then [] else natBytesFuel fuel (n / 256) ++ [BitVec.ofNat 8 n]

/-- The bytes of a number, most significant first, none for 0. -/
def natBytes (n : Nat) : List Byte := natBytesFuel n n

/-- The first `n` bytes of a number, least significant first. -/
def leBytes : Nat → Nat → List Byte
  | 0, _ => []
  | n + 1, w => BitVec.ofNat 8 w :: leBytes n (w / 256)

/-- The number of an error on the outcome port (R151). -/
def errNumber : ErrCode → BitVec 3
  | .transportUnavailable => 1
  | .linkClosed => 2
  | .timeout => 3
  | .crcError => 4
  | .malformedFrame => 5

/-- The 3-bit `code` field of the outcome port, 0 meaning `Ok` (R151). -/
def outcomeNumber : CmdOutcome → BitVec 3
  | .ok _ => 0
  | .err e => errNumber e

end Sys2Proof.Machine
end

