-- ==== Sys2Proof/Machine/Crc.lean ====
section
/-! DEFINITION. The CRC Engine (spec/40_crc.md R80 to R84): a pure function, no state (R26). -/

namespace Sys2Proof.Machine

/-- One shift iteration: the bit tested is bit 0 before the shift (R80). -/
def crcBit (a : Half) : Half :=
  if a.getLsbD 0 then (a >>> 1) ^^^ 0xA001 else a >>> 1

/-- One byte: XOR into the low byte, then eight iterations (R81). -/
def crcByte (a : Half) (b : Byte) : Half :=
  crcBit (crcBit (crcBit (crcBit (crcBit (crcBit (crcBit (crcBit (a ^^^ b.zeroExtend 16))))))))

/-- The accumulator after a whole sequence, first byte first, from 0xFFFF (R82). -/
def crcAcc (bytes : List Byte) : Half := bytes.foldl crcByte 0xFFFF

/-- `computeCRC`: the accumulator with its two bytes swapped (R83). -/
def computeCRC (bytes : List Byte) : Half := swap16 (crcAcc bytes)

end Sys2Proof.Machine
end

