-- ==== Sys2Proof/Machine/Codec.lean ====
section
/-! DEFINITION. The Frame Codec as pure functions (spec/41_codec.md R90 to R99): the encoder of the
three outbound formats and the decoder of the front of the Receive Buffer. -/

namespace Sys2Proof.Machine

/-- What DECODE answers (R94). -/
inductive DecodeResult where
  | needMoreBytes
  | crcError (len : Nat)
  | message (m : Message) (len : Nat)
  deriving DecidableEq, Repr

/-- A body with its two CRC bytes, the returned value high byte first (R84). -/
def withCrc (body : List Byte) : List Byte := body ++ halfBytes (computeCRC body)

/-- The 8-byte layout shared by RDREQ, WRREQ and PROBE (R61, R62, R69). -/
def buildFrame (addr func : Byte) (reg value : Half) : List Byte :=
  withCrc ([addr, func] ++ halfBytes reg ++ halfBytes value)

/-- ENC_RD (R90): function 0x03, the fixed count 0x0001. -/
def encRdFrame (addr : Byte) (reg : Half) : List Byte := buildFrame addr 0x03 reg 0x0001

/-- ENC_WR (R91): function 0x06. -/
def encWrFrame (addr : Byte) (reg value : Half) : List Byte := buildFrame addr 0x06 reg value

/-- ENC_PROBE (R92): the function code and both fields come from the configuration. -/
def encProbeFrame (c : Config) (addr : Byte) : List Byte :=
  buildFrame addr c.kaFunc c.kaReg c.kaValue

/-- The bytes of an RDRSP with the CRC it carries (R63). -/
def rdrspBytes (addr : Byte) (data : List Byte) (crc : Half) : List Byte :=
  [addr, 0x03, BitVec.ofNat 8 data.length] ++ data ++ halfBytes crc

/-- The bytes of a WRRSP with the CRC it carries (R64). -/
def wrrspBytes (addr : Byte) (reg value crc : Half) : List Byte :=
  [addr, 0x06] ++ halfBytes reg ++ halfBytes value ++ halfBytes crc

/-- Length determination (R95, R97): the length of the frame at the front of `buf`, where the bytes
the length rule reads are present and the function code is known. -/
def frameLength (buf : List Byte) : Option Nat :=
  if buf.length < 2 then none
  else if byteAt buf 1 = 0x06 then some 8
  else if byteAt buf 1 = 0x03 then
    if buf.length < 3 then none else some (3 + (byteAt buf 2).toNat + 2)
  else none

/-- The value of a decided frame (R98, R99). -/
def frameValue (buf : List Byte) : Nat :=
  if byteAt buf 1 = 0x03 then memRead buf 3 (byteAt buf 2).toNat
  else (join (byteAt buf 4) (byteAt buf 5)).toNat

/-- DECODE (R94). -/
def decodeFrame (buf : List Byte) : DecodeResult :=
  match frameLength buf with
  | none => .needMoreBytes
  | some len =>
    if buf.length < len then .needMoreBytes
    else
      let rc := join (byteAt buf (len - 2)) (byteAt buf (len - 1))
      if computeCRC (slice buf 0 (len - 2)) ≠ rc then .crcError len
      else .message
        { address := byteAt buf 0, function := byteAt buf 1, value := frameValue buf, crc := rc } len

end Sys2Proof.Machine
end

