-- ==== Sys2Proof/WellFormed.lean ====
section
/-! DEFINITION. Which terms of `Instr` the block's operand widths admit (spec/30_encoding.md R63,
R70; spec/10_state.md R16; spec/92_eei_decisions.md D3, D23). The zero keepalive interval is
well-formed: KA_START refuses it by name (spec/44_keepalive.md R136). -/

namespace Sys2Proof

/-- A handle has the configured width HANDLE_W. -/
def Config.handleFits (c : Config) (h : Handle) : Bool :=
  match c.handleW with
  | none => true
  | some w => decide (h < 2 ^ w)

/-- An interval has the configured width KA_INTERVAL_W (R6, R21). -/
def Config.intervalFits (c : Config) (interval : Nat) : Bool :=
  decide (interval < 2 ^ c.kaIntervalW)

/-- An origin's handle has the configured width. -/
def Config.originFits (c : Config) : Origin → Bool
  | .caller h => c.handleFits h
  | .keepalive => true

/-- The fields are the configured ones of the probe (R69); no other PROBE can be encoded (R68). -/
def Config.isProbe (c : Config) (func : Byte) (reg value : Half) : Bool :=
  decide (func = c.kaFunc) && decide (reg = c.kaReg) && decide (value = c.kaValue)

/-- Every operand lies in the width the spec gives it, and a PROBE's fields are the configured ones. -/
def Instr.wf (c : Config) : Instr → Bool
  | .rdreq .. | .wrreq .. => true
  | .probe _ func reg value => c.isProbe func reg value
  | .rdrsp _ data _ => decide (data.length ≤ 255)
  | .wrrsp .. => true
  | .reset | .connect _ | .disconnect | .transportFail => true
  | .read _ h => c.handleFits h
  | .write _ _ h => c.handleFits h
  | .kaStart interval _ => c.intervalFits interval
  | .kaStop | .rx _ | .tick => true
  | .crc _ | .encRd .. | .encWr .. | .encProbe _ | .decode _ => true
  | .submit frame _ _ _ origin => decide (frame.length = 8) && c.originFits origin
  | .deliver origin _ => c.originFits origin
  | .transmit | .onMessage _ | .kaFire | .kaDone _ => true

end Sys2Proof
end

