-- ==== Sys2Proof/Decode.lean ====
section
/-! DEFINITION. Decoding of what appears on the ports, total on any bytes, and the encoder written
from the same layouts (spec/30_encoding.md R61 to R71).

Operation word (R71; the packing of operands is the model's, DESIGN CHOICE, log 2). Byte 0 holds the
4-bit code in bits 3:0. The operands follow from byte 1 in the order of R71's table, each most
significant byte first: `addr` 1 byte, `reg` 2, `value` 2; `observer` is bit 4 of byte 0; `h`,
`interval` and `chunk`, whose widths are no constants (R6), are the rest of the word. Bytes not present read as 0; bits set or bytes present
beyond the operands are rejected. -/

namespace Sys2Proof

open Sys2Proof.Machine

/-- Bits 3:0 of the operation word (R71). -/
def opCode (b : Byte) : Byte := b &&& 0x0F

/-- Bits 7:4 of byte 0. -/
def opHigh (b : Byte) : Byte := b >>> 4

/-- A 16-bit operand at byte `k` of the operand bytes. -/
def halfAt (args : List Byte) (k : Nat) : Half := join (byteAt args k) (byteAt args (k + 1))

/-- `i`, where the word has no bit beyond its `n` operand bytes. -/
def withinOperands (high : Byte) (args : List Byte) (n : Nat) (i : Instr) : Decoded :=
  if high = 0 ∧ args.length ≤ n then .instr i else .reject .surplusOperandBits

/-- `i`, an operation whose last operand is the rest of the word. -/
def restIsOperand (high : Byte) (i : Instr) : Decoded :=
  if high = 0 then .instr i else .reject .surplusOperandBits

/-- The operation word's instruction (R71). -/
def decodeOp : List Byte → Decoded
  | [] => .reject .emptyOpWord
  | b :: args =>
    let op := (opCode b).toNat
    let high := opHigh b
    if op = 0x0 then withinOperands high args 0 .reset
    else if op = 0x1 then withinOperands high args 1 (.connect (byteAt args 0))
    else if op = 0x2 then withinOperands high args 0 .disconnect
    else if op = 0x3 then withinOperands high args 0 .transportFail
    else if op = 0x4 then restIsOperand high (.read (halfAt args 0) (be (args.drop 2)))
    else if op = 0x5 then
      restIsOperand high (.write (halfAt args 0) (halfAt args 2) (be (args.drop 4)))
    else if op = 0x6 then
      restIsOperand (high &&& 0xE) (.kaStart (be args) (high.getLsbD 0))
    else if op = 0x7 then withinOperands high args 0 .kaStop
    else if op = 0x8 then restIsOperand high (.rx args)
    else if op = 0x9 then withinOperands high args 0 .tick
    else .reject (.reservedOpCode op)

/-- What arrives on the line: one whole frame of format RDRSP (R63) or WRRSP (R64), by the selectors
over bytes 0 and 1, or else a chunk of bytes like any other (R44, log 11). -/
def decodeInbound (bs : List Byte) : Decoded :=
  if frameLength bs = some bs.length then
    if byteAt bs 1 = 0x06 then
      .instr (.wrrsp (byteAt bs 0) (halfAt bs 2) (halfAt bs 4) (halfAt bs 6))
    else
      .instr (.rdrsp (byteAt bs 0) (slice bs 3 (bs.length - 2)) (halfAt bs (bs.length - 2)))
  else .instr (.rx bs)

/-- A frame seen on the outbound line: 8 bytes whose CRC verifies (R93). An RDREQ is function 0x03
with count 0x0001 (R61), a WRREQ function 0x06 (R62), a PROBE (R69) with those very bytes is the same
frame and is read as that. Whether a PROBE is the configured one is `Instr.wf`'s to say. -/
def decodeOutbound (bs : List Byte) : Decoded :=
  if bs.length = 8 ∧ computeCRC (slice bs 0 6) = halfAt bs 6 then
    if byteAt bs 1 = 0x03 ∧ halfAt bs 4 = 0x0001 then .instr (.rdreq (byteAt bs 0) (halfAt bs 2))
    else if byteAt bs 1 = 0x06 then .instr (.wrreq (byteAt bs 0) (halfAt bs 2) (halfAt bs 4))
    else .instr (.probe (byteAt bs 0) (byteAt bs 1) (halfAt bs 2) (halfAt bs 4))
  else .reject .notAnOutboundFrame

/-- The instruction that bytes on a port stand for. -/
def decode : Port → List Byte → Decoded
  | .operation, bs => decodeOp bs
  | .inbound, bs => decodeInbound bs
  | .outbound, bs => decodeOutbound bs

/-- The bytes of an instruction on its port; none for an internal operation, which has no code (R71). -/
def encode : Instr → List Byte
  | .rdreq addr reg => encRdFrame addr reg
  | .wrreq addr reg value => encWrFrame addr reg value
  | .probe addr func reg value => buildFrame addr func reg value
  | .rdrsp addr data crc => rdrspBytes addr data crc
  | .wrrsp addr reg value crc => wrrspBytes addr reg value crc
  | .reset => [0x00]
  | .connect addr => [0x01, addr]
  | .disconnect => [0x02]
  | .transportFail => [0x03]
  | .read reg h => 0x04 :: (halfBytes reg ++ natBytes h)
  | .write reg value h => 0x05 :: (halfBytes reg ++ halfBytes value ++ natBytes h)
  | .kaStart interval observer => (if observer then 0x16 else 0x06) :: natBytes interval
  | .kaStop => [0x07]
  | .rx chunk => 0x08 :: chunk
  | .tick => [0x09]
  | .crc _ | .encRd .. | .encWr .. | .encProbe _ | .decode _ | .submit .. | .deliver .. | .transmit
  | .onMessage _ | .kaFire | .kaDone _ => []

/-- The operation an input starts; an internal operation cannot be presented from outside (R159 e). -/
def decodeInput : Input → Decoded
  | .bits p bs =>
    match decode p bs with
    | .reject r => .reject r
    | .instr i => if i.fromOutside then .instr i else .reject .notFromOutside
  | .named i => if i.fromOutside then .instr i else .reject .notFromOutside

/-- The bytes of 16-bit words given least significant word first, each word {byte0, byte1} with byte0
in its upper half, as the selectors of R63 and R64 number them (log 12). -/
def wordsBytes : Nat → Nat → List Byte
  | 0, _ => []
  | n + 1, w => BitVec.ofNat 8 (w / 256) :: BitVec.ofNat 8 w :: wordsBytes n (w / 65536)

/-- Exactly the bytes of the frame at the front, the bytes not given being 0. -/
def wholeFrame (bs : List Byte) : List Byte :=
  let padded := bs ++ [0, 0, 0]
  match frameLength padded with
  | none => bs
  | some len => (padded ++ List.replicate len 0).take len

/-- A word of the opcode table as an input (log 12): at most one byte is an operation word; more is a
frame. A 64-bit number whose first word selects no inbound format is read as the 64-bit string of R61
and R62, byte 0 in bits 63:56: an outbound frame if it is one, else bytes arriving on the line. -/
def tableInput (nbits w : Nat) : Input :=
  if nbits ≤ 8 then .bits .operation (leBytes 1 w)
  else
    let bs := wordsBytes ((nbits + 15) / 16) w
    if byteAt bs 1 = 0x03 ∨ byteAt bs 1 = 0x06 then .bits .inbound (wholeFrame bs)
    else if nbits = 64 then
      let bytes := (leBytes 8 w).reverse
      match decodeOutbound bytes with
      | .instr _ => .bits .outbound bytes
      | .reject _ => .bits .inbound bytes
    else .bits .inbound bs

/-- The instruction this decoder reads from a word of the opcode table, numbered as the table does. -/
def decodeTableWord (nbits w : Nat) : Option Instr :=
  match decodeInput (tableInput nbits w) with
  | .instr i => some i
  | .reject _ => none

end Sys2Proof
end

