-- ==== Sys2Proof/Machine/State.lean ====
section
/-! DEFINITION. The state of the block (spec/10_state.md R12 to R31), its reset value, and the
reasons a step can stop. State is plain data. -/

namespace Sys2Proof.Machine

/-- The state of a Command while it is in the queue (R16, R17); `Resolved` is not stored. -/
inductive CmdSt where
  | queued
  | inFlight
  deriving DecidableEq, Repr

/-- A Command (R16). `kind`, `reg` and `value` are kept for observation; no rule reads them. -/
structure Command where
  kind : CmdKind
  reg : Half
  value : Half
  frame : List Byte
  origin : Origin
  st : CmdSt
  deriving DecidableEq, Repr

/-- A structured log event (spec/60_exceptions.md R156). -/
inductive LogEvent where
  /-- `LOG(CrcError, frame)`: the bytes of the dropped frame -/
  | crcError (frame : List Byte)
  /-- `LOG(Unsolicited, m)`: the Message that found no Command in flight -/
  | unsolicited (m : Message)
  deriving DecidableEq, Repr

/-- An event on one of the four output ports (R30). -/
inductive OutEvent where
  | tx (frame : List Byte)
  | resolve (h : Handle) (outcome : CmdOutcome)
  | kaResult (outcome : CmdOutcome)
  | log (e : LogEvent)
  deriving DecidableEq, Repr

/-- The answer of DECODE as held in `ret` (spec/41_codec.md R94). -/
inductive Ret where
  /-- CRC (spec/40_crc.md R83) -/
  | crc (v : Half)
  /-- ENC_RD, ENC_WR, ENC_PROBE and the outbound frames (spec/41_codec.md R90 to R92) -/
  | frame (bs : List Byte)
  /-- DECODE: the front of the buffer is not yet a complete frame (R94) -/
  | needMoreBytes
  /-- DECODE: a complete frame of `len` bytes whose checksum fails (R94) -/
  | crcError (len : Nat)
  /-- DECODE: a complete valid frame of `len` bytes (R94) -/
  | message (m : Message) (len : Nat)
  deriving DecidableEq, Repr

/-- The one fault of the spec (spec/60_exceptions.md R158). -/
inductive Fault where
  /-- RX whose append would exceed a finite RXBUF_CAP (R28, D7). It is recorded in `State.fault`, and
  the operation answers a next state with nothing else changed, as vector X6 has it (log 13). Safe: a
  claim about such a run takes `fault = none` as a premise (R158). -/
  | rxOverflow
  deriving DecidableEq, Repr

/-- Why an input has no successor state (spec/60_exceptions.md R159). Every one is safe: nothing is
proved about a run that contains it. -/
inductive Refusal where
  /-- raised by a refused arm of `exec`: an instruction with no meaning yet. Safe. -/
  | notModelled (mnemonic : String)
  /-- raised by CONNECT while a session is open (R125, R159 a). Safe. -/
  | connectWhileConnected
  /-- raised by KA_START with interval 0 (R136, R159 b). Safe. -/
  | zeroInterval
  /-- raised by SUBMIT into a full finite queue (R117, R159 d). Safe. -/
  | queueFull
  /-- raised by the fetch: a reserved code (R159 c), an internal operation from outside (R159 e), or
  bits that are no operation word (log 14). Safe. -/
  | input (why : Reject)
  deriving DecidableEq, Repr

/-- Everything the spec gives the block, and the model's own `cfg`, `ret` and `inputs`. -/
structure State where
  /-- the configuration record (R6), written by no step (log 4) -/
  cfg : Config
  /-- R12 -/
  linkUp : Bool
  /-- R13 -/
  devAddr : Byte
  /-- the Receive Buffer, front first (R14) -/
  rxBuf : List Byte
  /-- the Pending Queue, oldest first (R15) -/
  queue : List Command
  /-- R19 -/
  kaEnabled : Bool
  /-- R20 -/
  kaObserver : Bool
  /-- in milliseconds, KA_INTERVAL_W bits wide: a count that never wraps, bounded by `KeepaliveInv` (R21,
  log 31) -/
  kaInterval : Nat
  /-- milliseconds still to wait, at most `kaInterval` of them (R22, log 31) -/
  kaTimer : Option Nat
  /-- R23 -/
  kaOutstanding : Bool
  /-- the sticky fault mark (R28) -/
  fault : Option Fault
  /-- what the four output ports have emitted since the last reset, in order (R30, log 6) -/
  out : List OutEvent
  /-- the value the last pure internal operation returned; read by no rule (log 7) -/
  ret : Option Ret
  /-- what the environment has presented and the block has not handled, oldest first (log 1) -/
  inputs : List Input
  deriving DecidableEq, Repr

/-- Every element of state at its reset value of R31, under a configuration. -/
def State.resetUnder (c : Config) : State where
  cfg := c
  linkUp := false
  devAddr := c.devAddrDefault
  rxBuf := []
  queue := []
  kaEnabled := false
  kaObserver := false
  kaInterval := 0
  kaTimer := none
  kaOutstanding := false
  fault := none
  out := []
  ret := none
  inputs := []

/-- The machine right after reset, in the default configuration of R6, nothing presented yet. -/
def State.reset : State := State.resetUnder Config.default

end Sys2Proof.Machine
end

