-- ==== Sys2Proof/Machine/Flags.lean ====
section
/-! DEFINITION. The derived predicates of spec/10_state.md R24, none of which is stored, and what a
Command's fields say. The block has no condition codes. -/

namespace Sys2Proof.Machine

/-- The Command has been transmitted and awaits its response (R17). -/
def Command.inFlight (c : Command) : Bool := decide (c.st = .inFlight)

/-- The Command is the keepalive scheduler's (R16, R23). -/
def Command.isKeepalive (c : Command) : Bool := decide (c.origin = .keepalive)

/-- `busy`: some Command is in flight (R24). -/
def State.busy (s : State) : Bool := s.queue.any Command.inFlight

/-- `idle`: the queue is empty (R24). -/
def State.idle (s : State) : Bool := s.queue.isEmpty

/-- `ka_armed` (R24). -/
def State.kaArmed (s : State) : Bool := s.kaTimer.isSome

/-- The front of a buffer whose second byte is an unknown function code (R24). -/
def stalledBuf (buf : List Byte) : Bool :=
  decide (2 ≤ buf.length) && decide (byteAt buf 1 ≠ 0x03) && decide (byteAt buf 1 ≠ 0x06)

/-- `rx_stalled` (R24, spec/42_reassembler.md R110). -/
def State.rxStalled (s : State) : Bool := stalledBuf s.rxBuf

/-- Appending the chunk would exceed a finite RXBUF_CAP (R28, R106). -/
def State.rxOverflows (s : State) (chunk : List Byte) : Bool :=
  match s.cfg.rxBufCap with
  | none => false
  | some cap => decide (cap < s.rxBuf.length + chunk.length)

/-- The queue holds QUEUE_CAP Commands, where that is finite (R117). -/
def State.queueFull (s : State) : Bool :=
  match s.cfg.queueCap with
  | none => false
  | some cap => decide (s.queue.length = cap)

end Sys2Proof.Machine
end

