-- ==== Sys2Proof/Machine/Ops.lean ====
section
/-! DEFINITION. The operations the meanings share: emitting, delivering, submitting, the transmission
gate, matching a Message, the keepalive cycle, the reassembly loop, and link loss, which is what this
block has in place of taking an exception (spec/60_exceptions.md R164), with opening a session, which
is what it has in place of the return (R165). The order of the writes is the rules' order. -/

namespace Sys2Proof.Machine

/-- `emit`: one event more on the output ports (spec/10_state.md R30). -/
def emit (e : OutEvent) (s : State) : State := { s with out := s.out ++ [e] }

/-- The observer is told, if there is one (spec/44_keepalive.md R140). -/
def report (outcome : CmdOutcome) (s : State) : State :=
  if s.kaObserver then emit (.kaResult outcome) s else s

/-- The wait is armed again, if the scheduler is still enabled (R140). -/
def rearm (s : State) : State :=
  if s.kaEnabled then { s with kaTimer := some s.kaInterval } else s

/-- KA_DONE (R140). -/
def kaDone (outcome : CmdOutcome) (s : State) : State :=
  rearm (report outcome { s with kaOutstanding := false })

/-- DELIVER (spec/43_correlator.md R118). -/
def deliver (origin : Origin) (outcome : CmdOutcome) (s : State) : State :=
  match origin with
  | .caller h => emit (.resolve h outcome) s
  | .keepalive => kaDone outcome s

/-- The frame of the oldest Queued Command, and the queue with that Command InFlight (R119). -/
def sendOldest : List Command → Option (List Byte × List Command)
  | [] => none
  | c :: rest =>
    if c.st = .queued then some (c.frame, { c with st := .inFlight } :: rest)
    else (sendOldest rest).map fun r => (r.1, c :: r.2)

/-- TRANSMIT (R119): nothing while the gate is closed or nothing is Queued. -/
def transmit (s : State) : State :=
  if s.busy then s
  else
    match sendOldest s.queue with
    | none => s
    | some (frame, queue) => emit (.tx frame) { s with queue := queue }

/-- The oldest Command in flight, and the queue without it (R121). -/
def takeInFlight : List Command → Option (Command × List Command)
  | [] => none
  | c :: rest =>
    if c.st = .inFlight then some (c, rest)
    else (takeInFlight rest).map fun r => (r.1, c :: r.2)

/-- ON_MESSAGE (R121, R122): removal, then the outcome, then the next transmission. -/
def onMessage (m : Message) (s : State) : State :=
  match takeInFlight s.queue with
  | some (c, queue) => transmit (deliver c.origin (.ok m.value) { s with queue := queue })
  | none => emit (.log (.unsolicited m)) s

/-- SUBMIT (R117): no link is tested before a full queue (spec/60_exceptions.md R163). -/
def submit (frame : List Byte) (kind : CmdKind) (reg value : Half) (origin : Origin) (s : State) :
    Host.Outcome State Fault Refusal :=
  if s.linkUp = false then .next (deliver origin (.err .transportUnavailable) s)
  else if s.queueFull then .refused .queueFull
  else
    let c : Command := { kind, reg, value, frame, origin, st := .queued }
    .next (transmit { s with queue := s.queue ++ [c] })

/-- KA_FIRE (spec/44_keepalive.md R139). -/
def kaFire (s : State) : Host.Outcome State Fault Refusal :=
  submit (encProbeFrame s.cfg s.devAddr) .probe s.cfg.kaReg s.cfg.kaValue .keepalive
    { s with kaOutstanding := true }

/-- Every Command of a list gets the same outcome, the oldest first (spec/43_correlator.md R126). -/
def deliverAll (outcome : CmdOutcome) : List Command → State → State
  | [], s => s
  | c :: rest, s => deliverAll outcome rest (deliver c.origin outcome s)

/-- Link loss (R126): nothing is saved; the scheduler stops, the session's queue and buffer go, and
every Command of the queue is delivered `Err(LinkClosed)`. Without a session it does nothing. -/
def linkLoss (s : State) : State :=
  if s.linkUp = false then s
  else
    deliverAll (.err .linkClosed) s.queue
      { s with kaEnabled := false, kaTimer := none, queue := [], rxBuf := [], linkUp := false }

/-- A session opens (R125): the one way back from link loss (spec/60_exceptions.md R165). -/
def openSession (addr : Byte) (s : State) : State :=
  { s with linkUp := true, devAddr := addr, rxBuf := [] }

/-- The loop of RX (spec/42_reassembler.md R106) as far as the fuel goes. Every iteration that does
not end it removes at least 5 bytes (R107), so one more than the buffer's length is enough. -/
def reassemble : Nat → State → State
  | 0, s => s
  | fuel + 1, s =>
    match decodeFrame s.rxBuf with
    | .needMoreBytes => s
    | .crcError len =>
      let t := emit (.log (.crcError (s.rxBuf.take len))) s
      reassemble fuel { t with rxBuf := s.rxBuf.drop len }
    | .message m len => reassemble fuel (onMessage m { s with rxBuf := s.rxBuf.drop len })

/-- A chunk arrives on the line (R106, R108): the link is tested before the capacity
(spec/60_exceptions.md R163). -/
def receive (chunk : List Byte) (s : State) : State :=
  if s.linkUp = false then s
  else if s.rxOverflows chunk then { s with fault := some .rxOverflow }
  else
    let buf := s.rxBuf ++ chunk
    reassemble (buf.length + 1) { s with rxBuf := buf }

/-- A pure operation returns its value (log 7). -/
def answer (r : Ret) (s : State) : State := { s with ret := some r }

/-- What DECODE answers, as a returned value. -/
def retOfDecode : DecodeResult → Ret
  | .needMoreBytes => .needMoreBytes
  | .crcError len => .crcError len
  | .message m len => .message m len

end Sys2Proof.Machine
end

