-- ==== Sys2Proof/Machine/Correlator.lean ====
section
/-! DEFINITION. The meanings of the Request Queue / Correlator's operations and of the link events
(spec/43_correlator.md R115 to R127). -/

namespace Sys2Proof.Machine

/-- READ (R115): encoded with the session's address, then submitted. -/
def execRead (reg : Half) (h : Handle) (s : State) : Host.Outcome State Fault Refusal :=
  submit (encRdFrame s.devAddr reg) .read reg 0x0001 (.caller h) s

/-- WRITE (R116). -/
def execWrite (reg value : Half) (h : Handle) (s : State) : Host.Outcome State Fault Refusal :=
  submit (encWrFrame s.devAddr reg value) .write reg value (.caller h) s

/-- SUBMIT (R117). -/
def execSubmit (frame : List Byte) (kind : CmdKind) (reg value : Half) (origin : Origin)
    (s : State) : Host.Outcome State Fault Refusal :=
  submit frame kind reg value origin s

/-- DELIVER (R118). -/
def execDeliver (origin : Origin) (outcome : CmdOutcome) (s : State) :
    Host.Outcome State Fault Refusal :=
  .next (deliver origin outcome s)

/-- TRANSMIT (R119). -/
def execTransmit (s : State) : Host.Outcome State Fault Refusal :=
  .next (transmit s)

/-- ON_MESSAGE (R121, R122). -/
def execOnMessage (m : Message) (s : State) : Host.Outcome State Fault Refusal :=
  .next (onMessage m s)

/-- CONNECT (R125): refused while a session is open. -/
def execConnect (addr : Byte) (s : State) : Host.Outcome State Fault Refusal :=
  if s.linkUp then .refused .connectWhileConnected else .next (openSession addr s)

/-- DISCONNECT (R126). -/
def execDisconnect (s : State) : Host.Outcome State Fault Refusal :=
  .next (linkLoss s)

/-- TRANSPORT_FAIL (R127): as DISCONNECT. -/
def execTransportFail (s : State) : Host.Outcome State Fault Refusal :=
  .next (linkLoss s)

end Sys2Proof.Machine
end

