-- ==== Sys2Proof/Machine/Frames.lean ====
section
/-! DEFINITION. The meanings of the frame rows of spec/opcode_table.json. An outbound frame is built,
which is the meaning the table's own note gives it ("semantics of building it", R61, R62, R69; log
9). An inbound frame arrives on the line and is received like any chunk of bytes (R63, R64, R106; log
10). -/

namespace Sys2Proof.Machine

/-- RDREQ (R61): the frame is built by R90. -/
def execRdreq (addr : Byte) (reg : Half) (s : State) : Host.Outcome State Fault Refusal :=
  .next (answer (.frame (encRdFrame addr reg)) s)

/-- WRREQ (R62): the frame is built by R91. -/
def execWrreq (addr : Byte) (reg value : Half) (s : State) : Host.Outcome State Fault Refusal :=
  .next (answer (.frame (encWrFrame addr reg value)) s)

/-- PROBE (R69): the frame is built by R92, with the function code and both fields taken from the
configuration, which a well-formed PROBE's operands repeat; no other probe is ever built (R68, log 32). -/
def execProbe (addr _func : Byte) (_reg _value : Half) (s : State) :
    Host.Outcome State Fault Refusal :=
  .next (answer (.frame (encProbeFrame s.cfg addr)) s)

/-- RDRSP (R63): the frame arrives. -/
def execRdrsp (addr : Byte) (data : List Byte) (crc : Half) (s : State) :
    Host.Outcome State Fault Refusal :=
  .next (receive (rdrspBytes addr data crc) s)

/-- WRRSP (R64): the frame arrives. -/
def execWrrsp (addr : Byte) (reg value crc : Half) (s : State) :
    Host.Outcome State Fault Refusal :=
  .next (receive (wrrspBytes addr reg value crc) s)

end Sys2Proof.Machine
end

