-- ==== Sys2Proof/Machine/Keepalive.lean ====
section
/-! DEFINITION. The meanings of the Keepalive Scheduler's operations (spec/44_keepalive.md R136 to
R140). -/

namespace Sys2Proof.Machine

/-- The wait starts, unless a probe is outstanding, whose KA_DONE will start it (R136). -/
def armUnlessOutstanding (interval : Nat) (s : State) : State :=
  if s.kaOutstanding then s else { s with kaTimer := some interval }

/-- KA_START (R136): a zero interval is refused before anything changes (R163). -/
def execKaStart (interval : Nat) (observer : Bool) (s : State) :
    Host.Outcome State Fault Refusal :=
  if interval = 0 then .refused .zeroInterval
  else
    .next (armUnlessOutstanding interval
      { s with kaEnabled := true, kaInterval := interval, kaObserver := observer })

/-- KA_STOP (R137). -/
def execKaStop (s : State) : Host.Outcome State Fault Refusal :=
  .next { s with kaEnabled := false, kaTimer := none }

/-- TICK (R138): the milliseconds pass that one TICK stands for, TICK_MS (R6), which is 1 where R138
writes 1 (log 31). -/
def execTick (s : State) : Host.Outcome State Fault Refusal :=
  match s.kaTimer with
  | none => .next s
  | some n =>
    if n ≤ s.cfg.tickMs then kaFire { s with kaTimer := none }
    else .next { s with kaTimer := some (n - s.cfg.tickMs) }

/-- KA_FIRE (R139). -/
def execKaFire (s : State) : Host.Outcome State Fault Refusal :=
  kaFire s

/-- KA_DONE (R140). -/
def execKaDone (outcome : CmdOutcome) (s : State) : Host.Outcome State Fault Refusal :=
  .next (kaDone outcome s)

end Sys2Proof.Machine
end

