-- ==== Sys2Proof/Machine/Pure.lean ====
section
/-! DEFINITION. The meanings of the pure internal operations CRC, ENC_RD, ENC_WR, ENC_PROBE and DECODE
(spec/40_crc.md R83, spec/41_codec.md R90 to R94). Each reads and writes no state of the block; the
value it returns stands in the model's own `ret` (log 7). -/

namespace Sys2Proof.Machine

/-- CRC (R83). -/
def execCrc (bytes : List Byte) (s : State) : Host.Outcome State Fault Refusal :=
  .next (answer (.crc (computeCRC bytes)) s)

/-- ENC_RD (R90). -/
def execEncRd (addr : Byte) (reg : Half) (s : State) : Host.Outcome State Fault Refusal :=
  .next (answer (.frame (encRdFrame addr reg)) s)

/-- ENC_WR (R91). -/
def execEncWr (addr : Byte) (reg value : Half) (s : State) : Host.Outcome State Fault Refusal :=
  .next (answer (.frame (encWrFrame addr reg value)) s)

/-- ENC_PROBE (R92). -/
def execEncProbe (addr : Byte) (s : State) : Host.Outcome State Fault Refusal :=
  .next (answer (.frame (encProbeFrame s.cfg addr)) s)

/-- DECODE (R94): it removes no bytes. -/
def execDecode (buf : List Byte) (s : State) : Host.Outcome State Fault Refusal :=
  .next (answer (retOfDecode (decodeFrame buf)) s)

end Sys2Proof.Machine
end

