-- ==== Sys2Proof/Machine/Reassembler.lean ====
section
/-! DEFINITION. The meaning of RX (spec/42_reassembler.md R106 to R112). -/

namespace Sys2Proof.Machine

/-- RX (R106). -/
def execRx (chunk : List Byte) (s : State) : Host.Outcome State Fault Refusal :=
  .next (receive chunk s)

end Sys2Proof.Machine
end

