-- ==== Sys2Proof/Machine/Reset.lean ====
section
/-! DEFINITION. The meaning of RESET (spec/70_reset_and_hazards.md R175). -/

namespace Sys2Proof.Machine

/-- RESET (R175): every element of state to its reset value (R31), no outcome delivered. The
configuration is fixed (R176), and what the environment has still to present is the environment's. -/
def execReset (s : State) : Host.Outcome State Fault Refusal :=
  .next { State.resetUnder s.cfg with inputs := s.inputs }

end Sys2Proof.Machine
end

