-- ==== Sys2Proof/Machine/Dispatch.lean ====
section
/-! DEFINITION. One arm per row of spec/opcode_table.json, in the table's order: the operation's effect
as its rule gives it. Which of them the environment may present is the fetch's business (Step.lean). -/

namespace Sys2Proof.Machine

def exec (i : Instr) (s : State) : Host.Outcome State Fault Refusal :=
  match i with
  | .rdreq addr reg => Sys2Proof.Machine.execRdreq addr reg s
  | .wrreq addr reg value => Sys2Proof.Machine.execWrreq addr reg value s
  | .probe addr func reg value => Sys2Proof.Machine.execProbe addr func reg value s
  | .rdrsp addr data crc => Sys2Proof.Machine.execRdrsp addr data crc s
  | .wrrsp addr reg value crc => Sys2Proof.Machine.execWrrsp addr reg value crc s
  | .reset => Sys2Proof.Machine.execReset s
  | .connect addr => Sys2Proof.Machine.execConnect addr s
  | .disconnect => Sys2Proof.Machine.execDisconnect s
  | .transportFail => Sys2Proof.Machine.execTransportFail s
  | .read reg h => Sys2Proof.Machine.execRead reg h s
  | .write reg value h => Sys2Proof.Machine.execWrite reg value h s
  | .kaStart interval observer => Sys2Proof.Machine.execKaStart interval observer s
  | .kaStop => Sys2Proof.Machine.execKaStop s
  | .rx chunk => Sys2Proof.Machine.execRx chunk s
  | .tick => Sys2Proof.Machine.execTick s
  | .crc bytes => Sys2Proof.Machine.execCrc bytes s
  | .encRd addr reg => Sys2Proof.Machine.execEncRd addr reg s
  | .encWr addr reg value => Sys2Proof.Machine.execEncWr addr reg value s
  | .encProbe addr => Sys2Proof.Machine.execEncProbe addr s
  | .decode buf => Sys2Proof.Machine.execDecode buf s
  | .submit frame kind reg value origin => Sys2Proof.Machine.execSubmit frame kind reg value origin s
  | .deliver origin outcome => Sys2Proof.Machine.execDeliver origin outcome s
  | .transmit => Sys2Proof.Machine.execTransmit s
  | .onMessage m => Sys2Proof.Machine.execOnMessage m s
  | .kaFire => Sys2Proof.Machine.execKaFire s
  | .kaDone outcome => Sys2Proof.Machine.execKaDone outcome s

end Sys2Proof.Machine
end

