-- ==== Sys2Proof/Machine/Step.lean ====
section
/-! DEFINITION. One step: the oldest input the environment has presented is handled to completion
(spec/20_memory.md R50). There is no program counter and no stored program (spec/10_state.md R11). -/

namespace Sys2Proof.Machine

/-- One step. With no input the block does nothing and keeps all its state (spec/60_exceptions.md
R168, log 17). An input that is no operation from outside has no successor state (R159). -/
def step (s : State) : Host.Outcome State Fault Refusal :=
  match s.inputs with
  | [] => .next s
  | x :: rest =>
    match decodeInput x with
    | .reject r => .refused (.input r)
    | .instr i =>
      if i.wf s.cfg then exec i { s with inputs := rest } else .refused (.input .illFormed)

/-- `s` with a word of the opcode table as the next input (log 1, log 12). -/
def State.withFetchWord (s : State) (nbits w : Nat) : State :=
  { s with inputs := tableInput nbits w :: s.inputs }

end Sys2Proof.Machine
end

