-- ==== Sys2Proof/Safety.lean ====
section
/-! DEFINITION. What counts as a safe state and a good run: the invariants the spec asks a model to
prove (spec/10_state.md R18, spec/44_keepalive.md R141, spec/42_reassembler.md R107, R14, R15, R16)
and the premise every claim takes (spec/60_exceptions.md R158). -/

namespace Sys2Proof.Machine

/-- The queue invariant (R18 a, b, c). -/
abbrev State.QueueInv (s : State) : Prop :=
  (s.queue.filter Command.inFlight).length ≤ 1 ∧
  (s.queue ≠ [] → s.linkUp = true) ∧
  (∀ c ∈ s.queue.head?, c.st = .inFlight) ∧
  (∀ d ∈ s.queue.tail, d.st = .queued) ∧
  (s.linkUp = false → s.queue = [])

/-- The keepalive invariants (R141 a to d; R23), with the legal values of the interval once written
and its width (R21). -/
abbrev State.KeepaliveInv (s : State) : Prop :=
  (s.kaOutstanding = true → s.kaTimer = none) ∧
  (s.linkUp = true →
    (s.queue.filter Command.isKeepalive).length = if s.kaOutstanding then 1 else 0) ∧
  (s.linkUp = false → s.kaOutstanding = false) ∧
  (s.kaTimer.all fun n => s.kaEnabled && decide (1 ≤ n) && decide (n ≤ s.kaInterval)) = true ∧
  (s.kaEnabled = true → 1 ≤ s.kaInterval) ∧
  s.kaInterval < 2 ^ s.cfg.kaIntervalW

/-- The buffer holds at most an incomplete or stalled front (R107), is empty without a session (R108),
and the sizes are within the configured capacities (R14, R15); every frame is 8 bytes (R16). -/
abbrev State.BufferInv (s : State) : Prop :=
  decodeFrame s.rxBuf = .needMoreBytes ∧
  (s.linkUp = false → s.rxBuf = []) ∧
  (∀ cap ∈ s.cfg.rxBufCap, s.rxBuf.length ≤ cap) ∧
  (∀ cap ∈ s.cfg.queueCap, s.queue.length ≤ cap) ∧
  (∀ c ∈ s.queue, c.frame.length = 8)

/-- A state between two operations of a run. -/
abbrev State.Inv (s : State) : Prop := s.QueueInv ∧ s.KeepaliveInv ∧ s.BufferInv

/-- A good final state: no fault mark (R158). -/
abbrev State.good (s : State) : Prop := s.fault = none

/-- The append fits the configured capacity (R43). -/
abbrev State.roomFor (s : State) (n : Nat) : Prop :=
  ∀ cap, s.cfg.rxBufCap = some cap → s.rxBuf.length + n ≤ cap

/-- The queue can take one Command more (R117). -/
abbrev State.roomInQueue (s : State) : Prop := s.cfg.queueCap ≠ some s.queue.length

/-- Operations performed one after the other (spec/20_memory.md R50); the first that stops, stops. -/
def execAll : List Instr → State → Host.Outcome State Fault Refusal
  | [], s => .next s
  | i :: rest, s =>
    match exec i s with
    | .next t => execAll rest t
    | .fault r => .fault r
    | .refused r => .refused r

/-- The frames on the TX port, in order (R30). -/
def txFrames (out : List OutEvent) : List (List Byte) :=
  out.filterMap fun e => match e with | .tx f => some f | _ => none

/-- The handles on the RESOLVE port, in order (R30). -/
def resolvedHandles (out : List OutEvent) : List Handle :=
  out.filterMap fun e => match e with | .resolve h _ => some h | _ => none

/-- The outcome an event carries, on RESOLVE or KA_RESULT (R30). -/
def OutEvent.outcome? : OutEvent → Option CmdOutcome
  | .resolve _ o => some o
  | .kaResult o => some o
  | .tx _ | .log _ => none

/-- How many `Ok` outcomes have been delivered on RESOLVE and KA_RESULT. -/
def okCount (out : List OutEvent) : Nat :=
  (out.filter fun e => match e.outcome? with | some (.ok _) => true | _ => false).length

/-- The handles of the Commands of a queue, in order. -/
def pendingHandles (queue : List Command) : List Handle :=
  queue.filterMap fun c => match c.origin with | .caller h => some h | .keepalive => none

/-- The frames still to be transmitted, in order. -/
def queuedFrames (queue : List Command) : List (List Byte) :=
  (queue.filter fun c => decide (c.st = .queued)).map Command.frame

/-- How many Commands are in flight. -/
def inFlightCount (queue : List Command) : Nat := (queue.filter Command.inFlight).length

/-- The handle an event hands in. -/
def newHandles : Instr → List Handle
  | .read _ h => [h]
  | .write _ _ h => [h]
  | _ => []

/-- The frame an event adds to an open session's queue: of READ (R115), WRITE (R116), and of a TICK
that ends the wait (R138, R139). -/
def newFrames (i : Instr) (s : State) : List (List Byte) :=
  if s.linkUp then
    match i with
    | .read reg _ => [encRdFrame s.devAddr reg]
    | .write reg value _ => [encWrFrame s.devAddr reg value]
    | .tick =>
      match s.kaTimer with
      | some n => if n ≤ s.cfg.tickMs then [encProbeFrame s.cfg s.devAddr] else []
      | none => []
    | _ => []
  else []

/-- The events that drop the queue: link loss and RESET (R126, R127, R175). -/
def endsSession : Instr → Bool
  | .disconnect | .transportFail | .reset => true
  | _ => false

/-- A queue whose first Command has just been sent. -/
def promoteHead : List Command → List Command
  | [] => []
  | c :: rest => { c with st := .inFlight } :: rest

/-- A frame the block can build: ENC_RD's, ENC_WR's, or the configured probe's (R68, R69). -/
abbrev builtUnder (c : Config) (f : List Byte) : Prop :=
  (∃ addr reg, f = encRdFrame addr reg) ∨ (∃ addr reg value, f = encWrFrame addr reg value) ∨
  (∃ addr, f = encProbeFrame c addr)

/-- What link loss tells the owner of a Command (R126). -/
def closedEvents (observer : Bool) (c : Command) : List OutEvent :=
  match c.origin with
  | .caller h => [.resolve h (.err .linkClosed)]
  | .keepalive => if observer then [.kaResult (.err .linkClosed)] else []

/-- The refusals of R159 that an operation itself makes, and when. -/
def refusalOf (i : Instr) (s : State) : Option Refusal :=
  let full : Option Refusal :=
    if s.linkUp = true ∧ s.cfg.queueCap = some s.queue.length then some .queueFull else none
  match i with
  | .connect _ => if s.linkUp then some .connectWhileConnected else none
  | .kaStart interval _ => if interval = 0 then some .zeroInterval else none
  | .read .. | .write .. | .submit .. | .kaFire => full
  | .tick =>
    match s.kaTimer with
    | some n => if n ≤ s.cfg.tickMs then full else none
    | none => none
  | _ => none

/-- Every handle of a queue or an output renamed (R16: a handle is opaque). -/
def Origin.rename (f : Handle → Handle) : Origin → Origin
  | .caller h => .caller (f h)
  | .keepalive => .keepalive

def OutEvent.rename (f : Handle → Handle) : OutEvent → OutEvent
  | .resolve h o => .resolve (f h) o
  | .tx b => .tx b
  | .kaResult o => .kaResult o
  | .log e => .log e

def Instr.rename (f : Handle → Handle) : Instr → Instr
  | .read reg h => .read reg (f h)
  | .write reg value h => .write reg value (f h)
  | .submit frame kind reg value origin => .submit frame kind reg value (Origin.rename f origin)
  | .deliver origin o => .deliver (Origin.rename f origin) o
  | i => i

def State.rename (f : Handle → Handle) (s : State) : State :=
  { s with
    queue := s.queue.map fun c => { c with origin := Origin.rename f c.origin }
    out := s.out.map (OutEvent.rename f) }

end Sys2Proof.Machine
end

