-- ==== Sys2Proof/Certificates/Slice0/Obligations.lean ====
section
/-! DEFINITION. The statements for the provers, from the numbered rules of spec/. Each docstring names
the rule or the section it formalises; where a clause rests on a choice of the model or on a decision
the spec marks as its own, it says so. -/

open Sys2Proof Sys2Proof.Machine

/-! ## Reset -/

/-- Every element at the value of spec/10_state.md's reset table (the spec's own decision D5). `out`
empty is that table's row "output ports"; `ret` and `inputs` are the model's own (log 7, log 1). -/
def Obligations.ResetStateHoldsSpecValues : Prop :=
  State.reset.linkUp = false ∧ State.reset.devAddr = 0x01 ∧ State.reset.rxBuf = [] ∧
  State.reset.queue = [] ∧ State.reset.kaEnabled = false ∧ State.reset.kaObserver = false ∧
  State.reset.kaInterval = 0 ∧ State.reset.kaTimer = none ∧ State.reset.kaOutstanding = false ∧
  State.reset.fault = none ∧ State.reset.out = [] ∧ State.reset.ret = none ∧
  State.reset.inputs = [] ∧
  State.reset.cfg =
    { devAddrDefault := 0x01, kaFunc := 0x03, kaReg := 0xFD00, kaValue := 0x0001,
      rxBufCap := none, queueCap := none, handleW := none, kaIntervalW := 32, tickMs := 1 }

/-- RESET from any state (spec/70_reset_and_hazards.md, decision D5): no outcome is delivered, the
fault is cleared; the configuration and what the environment has yet to present stay (log 1, log 4). -/
def Obligations.ResetEventRestoresState : Prop :=
  ∀ s : State, exec .reset s = .next
    { cfg := s.cfg, linkUp := false, devAddr := s.cfg.devAddrDefault, rxBuf := [], queue := [],
      kaEnabled := false, kaObserver := false, kaInterval := 0, kaTimer := none,
      kaOutstanding := false, fault := none, out := [], ret := none, inputs := s.inputs }

/-- The reset state meets the invariant that every step keeps, and carries no fault. -/
def Obligations.ResetStateMeetsInvariant : Prop := State.reset.Inv ∧ State.reset.good

/-! ## The step -/

/-- A step performs the operation the oldest input stands for, and only takes that input away (log 1). -/
def Obligations.StepRunsDecodedInput : Prop :=
  ∀ (s : State) (x : Input) (rest : List Input) (i : Instr),
    s.inputs = x :: rest → decodeInput x = .instr i → i.wf s.cfg = true →
    step s = exec i { s with inputs := rest }

/-- With no input the block keeps all its state (spec/60_exceptions.md, "between events the block does
nothing"; log 17); an input that is no operation, is reserved, or has an operand outside its width has
no successor state (log 14). Which words carry a reserved code rests on the code standing in the low four
bits (decision D2) of byte 0 (the model's packing, log 2). -/
def Obligations.StepStopsOnRejectedInput : Prop :=
  (∀ s : State, s.inputs = [] → step s = .next s) ∧
  (∀ (s : State) (x : Input) (rest : List Input) (r : Reject),
    s.inputs = x :: rest → decodeInput x = .reject r → step s = .refused (.input r)) ∧
  (∀ (s : State) (x : Input) (rest : List Input) (i : Instr),
    s.inputs = x :: rest → decodeInput x = .instr i → i.wf s.cfg = false →
    step s = .refused (.input .illFormed)) ∧
  (∀ (s : State) (b : Byte) (args : List Byte) (rest : List Input),
    s.inputs = .bits .operation (b :: args) :: rest → 0xA ≤ b.toNat % 16 →
    step s = .refused (.input (.reservedOpCode (b.toNat % 16))))

/-- Nothing outside the block can invoke an internal operation (decision D2): no bits on any port
stand for one, and one named directly is refused. -/
def Obligations.InternalOperationsCannotEnter : Prop :=
  (∀ (p : Port) (bs : List Byte) (i : Instr), decode p bs = .instr i → i.port = some p ∨
    (p = .inbound ∧ i = .rx bs)) ∧
  (∀ (x : Input) (i : Instr), decodeInput x = .instr i → i.port ≠ none) ∧
  (∀ (s : State) (i : Instr) (rest : List Input),
    s.inputs = .named i :: rest → i.port = none → step s = .refused (.input .notFromOutside))

/-! ## Encoding -/

/-- Every instruction that has an encoding is decoded from it again, with every operand, under every
configuration (a PROBE is well-formed under the configuration whose fields it carries). A PROBE whose
bytes are those of an RDREQ or a WRREQ is that frame (direction and kind are not encoded). The packing of
operation words is the model's (log 2). -/
def Obligations.DecodeInvertsEncode : Prop :=
  (∀ (c : Config) (i : Instr) (p : Port), i.wf c = true → i.port = some p →
    (∀ addr func reg value, i = .probe addr func reg value →
      func ≠ 0x06 ∧ ¬ (func = 0x03 ∧ value = 0x0001)) →
    decode p (encode i) = .instr i) ∧
  (∀ (addr : Byte) (reg value : Half),
    decode .outbound (encode (.probe addr 0x06 reg value)) = .instr (.wrreq addr reg value) ∧
    decode .outbound (encode (.probe addr 0x03 reg 0x0001)) = .instr (.rdreq addr reg))

/-- On the line no bit is lost: what decodes as an outbound frame encodes to the same bytes, and what
decodes as an inbound frame, or else is a chunk (log 11), keeps its bytes. -/
def Obligations.EncodeInvertsDecodeOnLine : Prop :=
  (∀ (bs : List Byte) (i : Instr), decode .outbound bs = .instr i → encode i = bs) ∧
  (∀ (bs : List Byte) (i : Instr), decode .inbound bs = .instr i → encode i = bs ∨ i = .rx bs)

/-- Words written out by hand from the formats and from the operation codes. -/
def Obligations.WordsDecodeAsWritten : Prop :=
  decode .outbound [0x01, 0x03, 0xFD, 0x06, 0x00, 0x01, 0x55, 0xA7] = .instr (.rdreq 0x01 0xFD06) ∧
  decode .outbound [0x01, 0x06, 0xFA, 0x00, 0xC4, 0x00, 0xEB, 0xD2] =
    .instr (.wrreq 0x01 0xFA00 0xC400) ∧
  decode .inbound [0x01, 0x03, 0x02, 0x00, 0x18, 0xB8, 0x4E] =
    .instr (.rdrsp 0x01 [0x00, 0x18] 0xB84E) ∧
  decode .inbound [0x11, 0x06, 0x00, 0x01, 0x00, 0x03, 0x9A, 0x9B] =
    .instr (.wrrsp 0x11 0x0001 0x0003 0x9A9B) ∧
  decode .operation [0x01, 0x11] = .instr (.connect 0x11) ∧
  decode .operation [0x04, 0xFD, 0x06, 0x2A] = .instr (.read 0xFD06 42) ∧
  decode .operation [0x16, 0x00, 0x00, 0x00, 0x03] = .instr (.kaStart 3 true) ∧
  decode .operation [0x08, 0x01, 0x03] = .instr (.rx [0x01, 0x03]) ∧
  decode .operation [0x0A] = .reject (.reservedOpCode 10)

/-! ## The CRC engine -/

/-- R80. -/
def Obligations.CrcBitShiftsAndXors : Prop :=
  (∀ a : Half, (crcBit a).toNat =
    if a.toNat % 2 = 1 then (a.toNat / 2) ^^^ 0xA001 else a.toNat / 2) ∧
  crcBit 0x0000 = 0x0000 ∧ crcBit 0x0001 = 0xA001 ∧ crcBit 0xFFFF = 0xDFFE ∧
  crcBit 0xFFFE = 0x7FFF ∧ crcBit 0x9FFE = 0x4FFF

/-- R81: the XOR touches the low byte only, then exactly eight iterations; equal low byte and operand
shift the high byte down. -/
def Obligations.CrcByteIsEightSteps : Prop :=
  (∀ (a : Half) (b : Byte), crcByte a b = crcBit^[8] (join (hi8 a) (lo8 a ^^^ b))) ∧
  (∀ (a : Half) (b : Byte), lo8 a = b → crcByte a b = join 0x00 (hi8 a)) ∧
  crcByte 0x1234 0x34 = 0x0012 ∧
  (List.range 8).map (fun k => crcBit^[k + 1] 0xFFFE) =
    [0x7FFF, 0x9FFE, 0x4FFF, 0x87FE, 0x43FF, 0x81FE, 0x40FF, 0x807E] ∧
  crcByte 0xFFFF 0x01 = 0x807E ∧
  (List.range 8).map (fun k => crcBit^[k + 1] 0xFFFF) =
    [0xDFFE, 0x6FFF, 0x97FE, 0x4BFF, 0x85FE, 0x42FF, 0x817E, 0x40BF] ∧
  crcByte 0xFFFF 0x00 = 0x40BF

/-- R82. -/
def Obligations.CrcAccumulatesFirstByteFirst : Prop :=
  crcAcc [] = 0xFFFF ∧
  (∀ (s : List Byte) (b : Byte), crcAcc (s ++ [b]) = crcByte (crcAcc s) b) ∧
  (List.range 5).map (fun k => crcAcc ([0x01, 0x03, 0x02, 0x00, 0x18].take (k + 1))) =
    [0x807E, 0x2140, 0x31A1, 0xB8F0, 0x4EB8] ∧
  (List.range 6).map (fun k => crcAcc ([0x01, 0x03, 0xFD, 0x06, 0x00, 0x01].take (k + 1))) =
    [0x807E, 0x2140, 0x71E1, 0x4A31, 0xD48B, 0xA755]

/-- R83. -/
def Obligations.ComputeCrcSwapsTheAccumulator : Prop :=
  (∀ bytes : List Byte, computeCRC bytes = join (lo8 (crcAcc bytes)) (hi8 (crcAcc bytes))) ∧
  computeCRC [] = 0xFFFF ∧ computeCRC [0x00] = 0xBF40 ∧ computeCRC [0xFF] = 0xFF00 ∧
  computeCRC [0x01, 0x03, 0x02, 0x00, 0x18] = 0xB84E ∧
  computeCRC [0x01, 0x03, 0xFD, 0x06, 0x00, 0x01] = 0x55A7 ∧
  computeCRC [0x01, 0x06, 0xFA, 0x00, 0xC4, 0x00] = 0xEBD2

/-- A sequence followed by its accumulator, low byte first, accumulates to zero; and the accumulator of
a longer sequence is the fold from that of the shorter one (spec/40_crc.md, properties b and c, which
the spec marks as derived). -/
def Obligations.CrcResidueVanishes : Prop :=
  (∀ body : List Byte, crcAcc (body ++ [lo8 (crcAcc body), hi8 (crcAcc body)]) = 0x0000) ∧
  (∀ s t : List Byte, crcAcc (s ++ t) = t.foldl crcByte (crcAcc s))

/-- Linearity of eight steps and the table form (spec/40_crc.md, properties d and e, which the spec
marks as derived). -/
def Obligations.CrcHasTableForm : Prop :=
  (∀ x y : Half, crcBit^[8] (x ^^^ y) = crcBit^[8] x ^^^ crcBit^[8] y) ∧
  (∀ (a : Half) (b : Byte),
    crcByte a b = (a >>> 8) ^^^ crcBit^[8] ((lo8 (a ^^^ b.zeroExtend 16)).zeroExtend 16)) ∧
  [0x00, 0x01, 0x02, 0x03, 0x80, 0xFF].map (fun i : Half => crcBit^[8] i) =
    [0x0000, 0xC0C1, 0xC181, 0x0140, 0xA001, 0x4040]

/-- R84: every frame the block builds, and every frame it accepts, ends with the low byte and then the
high byte of the accumulator over all bytes before them, which are the high and the low byte of the
value `computeCRC` returns. -/
def Obligations.FramesEndWithTheirCrc : Prop :=
  (∀ (addr func : Byte) (reg value : Half),
    let f := buildFrame addr func reg value
    f.drop 6 = [hi8 (computeCRC (f.take 6)), lo8 (computeCRC (f.take 6))] ∧
    f.drop 6 = [lo8 (crcAcc (f.take 6)), hi8 (crcAcc (f.take 6))]) ∧
  (∀ (buf : List Byte) (m : Message) (len : Nat), decodeFrame buf = .message m len →
    byteAt buf (len - 2) = lo8 (crcAcc (buf.take (len - 2))) ∧
    byteAt buf (len - 1) = hi8 (crcAcc (buf.take (len - 2)))) ∧
  crcAcc [0x01, 0x03, 0x02, 0x00, 0x18] = 0x4EB8 ∧
  computeCRC [0x01, 0x03, 0x02, 0x00, 0x18] = 0xB84E ∧
  withCrc [0x01, 0x03, 0x02, 0x00, 0x18] = [0x01, 0x03, 0x02, 0x00, 0x18, 0xB8, 0x4E]

/-! ## The codec -/

/-- CRC, ENC_RD, ENC_WR, ENC_PROBE, DECODE and the three outbound frames complete in every state and
change nothing but the model's own `ret`, where the returned value stands (the model's choice, log 7,
log 9). A PROBE is the configured one whatever its operands, which a well-formed PROBE holds to the
configuration (log 32). -/
def Obligations.PureOperationsAnswerTheirValue : Prop :=
  ∀ (s : State) (bytes : List Byte) (addr func : Byte) (reg value : Half),
    exec (.crc bytes) s = .next { s with ret := some (.crc (computeCRC bytes)) } ∧
    exec (.encRd addr reg) s = .next { s with ret := some (.frame (encRdFrame addr reg)) } ∧
    exec (.encWr addr reg value) s =
      .next { s with ret := some (.frame (encWrFrame addr reg value)) } ∧
    exec (.encProbe addr) s =
      .next { s with
        ret := some (.frame (buildFrame addr s.cfg.kaFunc s.cfg.kaReg s.cfg.kaValue)) } ∧
    exec (.rdreq addr reg) s = .next { s with ret := some (.frame (encRdFrame addr reg)) } ∧
    exec (.wrreq addr reg value) s =
      .next { s with ret := some (.frame (encWrFrame addr reg value)) } ∧
    exec (.probe addr func reg value) s =
      .next { s with
        ret := some (.frame (buildFrame addr s.cfg.kaFunc s.cfg.kaReg s.cfg.kaValue)) } ∧
    (decodeFrame bytes = .needMoreBytes →
      exec (.decode bytes) s = .next { s with ret := some .needMoreBytes }) ∧
    (∀ len, decodeFrame bytes = .crcError len →
      exec (.decode bytes) s = .next { s with ret := some (.crcError len) }) ∧
    (∀ m len, decodeFrame bytes = .message m len →
      exec (.decode bytes) s = .next { s with ret := some (.message m len) })

/-- R61 and R90: the eight bytes of the read request. -/
def Obligations.ReadRequestHasItsLayout : Prop :=
  (∀ (addr : Byte) (reg : Half),
    let c := computeCRC [addr, 0x03, reg.extractLsb' 8 8, reg.extractLsb' 0 8, 0x00, 0x01]
    encRdFrame addr reg =
      [addr, 0x03, reg.extractLsb' 8 8, reg.extractLsb' 0 8, 0x00, 0x01,
        c.extractLsb' 8 8, c.extractLsb' 0 8]) ∧
  encRdFrame 0x01 0x0000 = [0x01, 0x03, 0x00, 0x00, 0x00, 0x01, 0x84, 0x0A] ∧
  encRdFrame 0x01 0xFD06 = [0x01, 0x03, 0xFD, 0x06, 0x00, 0x01, 0x55, 0xA7]

/-- R62: the eight bytes of the write request. -/
def Obligations.WriteRequestHasItsLayout : Prop :=
  (∀ (addr : Byte) (reg value : Half),
    let c := computeCRC [addr, 0x06, reg.extractLsb' 8 8, reg.extractLsb' 0 8,
      value.extractLsb' 8 8, value.extractLsb' 0 8]
    encWrFrame addr reg value =
      [addr, 0x06, reg.extractLsb' 8 8, reg.extractLsb' 0 8,
        value.extractLsb' 8 8, value.extractLsb' 0 8, c.extractLsb' 8 8, c.extractLsb' 0 8]) ∧
  encWrFrame 0x01 0xFA00 0xC400 = [0x01, 0x06, 0xFA, 0x00, 0xC4, 0x00, 0xEB, 0xD2]

/-- The probe takes function code and both fields from the configuration, whatever they are; with the
defaults it is a read request for register 0xFD00 (decision D14). -/
def Obligations.ProbeFollowsConfiguration : Prop :=
  (∀ (c : Config) (addr : Byte), (encProbeFrame c addr).take 6 =
    [addr, c.kaFunc, c.kaReg.extractLsb' 8 8, c.kaReg.extractLsb' 0 8,
      c.kaValue.extractLsb' 8 8, c.kaValue.extractLsb' 0 8] ∧
    encProbeFrame c addr = withCrc ((encProbeFrame c addr).take 6)) ∧
  (∀ addr : Byte, encProbeFrame Config.default addr = encRdFrame addr 0xFD00) ∧
  encProbeFrame Config.default 0x01 = [0x01, 0x03, 0xFD, 0x00, 0x00, 0x01, 0xB5, 0xA6]

/-- Every encoded frame has 8 bytes, starts with the address and passes verification: its accumulator
is zero (spec/41_codec.md, properties of encoded frames, which the spec marks as derived). -/
def Obligations.EncodedFramesVerify : Prop :=
  ∀ (addr func : Byte) (reg value : Half),
    let f := buildFrame addr func reg value
    f.length = 8 ∧ f.head? = some addr ∧
    computeCRC (f.take 6) = join (byteAt f 6) (byteAt f 7) ∧ crcAcc f = 0x0000

/-- When DECODE waits, and that it waits in no other case (spec/41_codec.md, length determination, one
clause of which the spec marks as derived). -/
def Obligations.DecodeWaitsExactlyWhenIncomplete : Prop :=
  ∀ buf : List Byte, decodeFrame buf = .needMoreBytes ↔
    buf.length < 2 ∨ (byteAt buf 1 ≠ 0x03 ∧ byteAt buf 1 ≠ 0x06) ∨
    (byteAt buf 1 = 0x06 ∧ buf.length < 8) ∨
    (byteAt buf 1 = 0x03 ∧ (buf.length < 3 ∨ buf.length < 5 + (byteAt buf 2).toNat))

/-- R96: over a complete frame all 16 bits are compared; a mismatch is `CrcError` with the length a
valid frame would have had, and nothing else is. -/
def Obligations.DecodeComparesTheWholeCrc : Prop :=
  (∀ (buf : List Byte) (len : Nat), 2 ≤ buf.length →
    (byteAt buf 1 = 0x06 ∧ len = 8) ∨
      (byteAt buf 1 = 0x03 ∧ 3 ≤ buf.length ∧ len = 3 + (byteAt buf 2).toNat + 2) →
    len ≤ buf.length →
    (computeCRC (buf.take (len - 2)) ≠ join (byteAt buf (len - 2)) (byteAt buf (len - 1)) →
      decodeFrame buf = .crcError len) ∧
    (computeCRC (buf.take (len - 2)) = join (byteAt buf (len - 2)) (byteAt buf (len - 1)) →
      ∃ m, decodeFrame buf = .message m len ∧
        m.crc = join (byteAt buf (len - 2)) (byteAt buf (len - 1)))) ∧
  decodeFrame [0x01, 0x06, 0xFA, 0x00, 0xC4, 0x00, 0xEB, 0xD3] = .crcError 8

/-- R97: an unknown function code is never decided, however long the buffer. -/
def Obligations.UnknownFunctionIsNeverDecided : Prop :=
  (∀ buf s : List Byte, 2 ≤ buf.length → byteAt buf 1 ≠ 0x03 → byteAt buf 1 ≠ 0x06 →
    decodeFrame (buf ++ s) = .needMoreBytes) ∧
  (∀ s : List Byte, decodeFrame ([0x01, 0x83, 0x02, 0xC0, 0xF1] ++ s) = .needMoreBytes)

/-- A read response of any data length from 0 to 255, followed by anything, decodes to the exact
big-endian number of its data (exactness is decision D12). -/
def Obligations.ReadResponseValueIsExact : Prop :=
  (∀ (addr : Byte) (data tail : List Byte), data.length ≤ 255 →
    let body := [addr, 0x03, BitVec.ofNat 8 data.length] ++ data
    decodeFrame (withCrc body ++ tail) = .message
      { address := addr, function := 0x03, value := be data, crc := computeCRC body }
      (5 + data.length)) ∧
  (∀ data : List Byte, be data < 256 ^ data.length) ∧
  be [] = 0 ∧ (∀ (s : List Byte) (b : Byte), be (s ++ [b]) = be s * 256 + b.toNat)

/-- R99: the value of a write response is its bytes 4 and 5; its register bytes are covered by the
checksum and are no part of the Message. -/
def Obligations.WriteResponseValueIsBytesFourAndFive : Prop :=
  (∀ a r1 r2 v1 v2 : Byte, ∀ tail : List Byte,
    let body := [a, 0x06, r1, r2, v1, v2]
    decodeFrame (withCrc body ++ tail) = .message
      { address := a, function := 0x06, value := v1.toNat * 256 + v2.toNat,
        crc := computeCRC body } 8) ∧
  decodeFrame [0x01, 0x06, 0xFA, 0x00, 0xC4, 0x00, 0xEB, 0xD2] =
    .message { address := 0x01, function := 0x06, value := 50176, crc := 0xEBD2 } 8 ∧
  decodeFrame [0x11, 0x06, 0x00, 0x01, 0x00, 0x03, 0x9A, 0x9B] =
    .message { address := 0x11, function := 0x06, value := 3, crc := 0x9A9B } 8

/-- A decided frame does not change when more bytes arrive, its length is within the buffer and from 5
to 260 bytes; a waiting buffer with a known function code has an extension that is decided
(spec/41_codec.md, prefix stability, which the spec marks as derived). -/
def Obligations.DecodeIsPrefixStable : Prop :=
  (∀ (buf s : List Byte) (len : Nat), decodeFrame buf = .crcError len →
    decodeFrame (buf ++ s) = .crcError len ∧ 5 ≤ len ∧ len ≤ 260 ∧ len ≤ buf.length) ∧
  (∀ (buf s : List Byte) (m : Message) (len : Nat), decodeFrame buf = .message m len →
    decodeFrame (buf ++ s) = .message m len ∧ 5 ≤ len ∧ len ≤ 260 ∧ len ≤ buf.length) ∧
  (∀ buf : List Byte, decodeFrame buf = .needMoreBytes → 2 ≤ buf.length →
    byteAt buf 1 = 0x03 ∨ byteAt buf 1 = 0x06 → ∃ s, decodeFrame (buf ++ s) ≠ .needMoreBytes)

/-- R102. -/
def Obligations.WriteRequestRoundTrip : Prop :=
  (∀ (addr : Byte) (reg value : Half),
    decodeFrame (encWrFrame addr reg value) = .message
      { address := addr, function := 0x06, value := value.toNat,
        crc := computeCRC ((encWrFrame addr reg value).take 6) } 8) ∧
  (∀ (addr : Byte) (reg : Half),
    frameLength (encRdFrame addr reg) = some (3 + (hi8 reg).toNat + 2))

/-! ## The reassembler -/

/-- RX as its loop, one frame at a time, whatever the fuel of the model's loop: no session, overflow
(the sticky mark and nothing else), an incomplete front, a bad frame, a good frame (spec/42_reassembler.md;
decisions D6 and D7 for the first two). -/
def Obligations.ReceiveUnrollsFrameByFrame : Prop :=
  ∀ (s : State) (chunk : List Byte),
    (s.linkUp = false → exec (.rx chunk) s = .next s) ∧
    (s.linkUp = true → (∃ cap, s.cfg.rxBufCap = some cap ∧ cap < s.rxBuf.length + chunk.length) →
      exec (.rx chunk) s = .next { s with fault := some .rxOverflow }) ∧
    (s.linkUp = true → s.roomFor chunk.length →
      (decodeFrame (s.rxBuf ++ chunk) = .needMoreBytes →
        exec (.rx chunk) s = .next { s with rxBuf := s.rxBuf ++ chunk }) ∧
      (∀ len, decodeFrame (s.rxBuf ++ chunk) = .crcError len →
        exec (.rx chunk) s = exec (.rx [])
          { s with rxBuf := (s.rxBuf ++ chunk).drop len,
                   out := s.out ++ [.log (.crcError ((s.rxBuf ++ chunk).take len))] }) ∧
      (∀ m len, decodeFrame (s.rxBuf ++ chunk) = .message m len →
        ∃ t, exec (.onMessage m) { s with rxBuf := (s.rxBuf ++ chunk).drop len } = .next t ∧
          exec (.rx chunk) s = exec (.rx []) t))

/-- RX in a session with room completes; what it takes off the front is a sequence of whole frames, each
of exactly its declared length, and what it leaves is not decidable (spec/20_memory.md, no speculative
discard; spec/42_reassembler.md, how the loop ends, which the spec marks as derived). -/
def Obligations.ReceiveConsumesWholeFramesOnly : Prop :=
  ∀ (s : State) (chunk : List Byte), s.linkUp = true → s.roomFor chunk.length →
    ∃ (t : State) (frames : List (List Byte)), exec (.rx chunk) s = .next t ∧
      s.rxBuf ++ chunk = frames.flatten ++ t.rxBuf ∧
      (∀ f ∈ frames, frameLength f = some f.length) ∧
      decodeFrame t.rxBuf = .needMoreBytes

/-- The frame of RX and of the two inbound frames: what they cannot change, and how little the rest can
change. -/
def Obligations.ReceiveLeavesTheRestAlone : Prop :=
  ∀ (s t : State) (i : Instr),
    ((∃ chunk, i = .rx chunk) ∨ (∃ a d c, i = .rdrsp a d c) ∨ (∃ a r v c, i = .wrrsp a r v c)) →
    exec i s = .next t →
    t.cfg = s.cfg ∧ t.linkUp = s.linkUp ∧ t.devAddr = s.devAddr ∧ t.kaEnabled = s.kaEnabled ∧
    t.kaObserver = s.kaObserver ∧ t.kaInterval = s.kaInterval ∧ t.ret = s.ret ∧
    t.inputs = s.inputs ∧
    (t.fault = s.fault ∨ t = { s with fault := some .rxOverflow }) ∧
    (t.kaTimer = s.kaTimer ∨ (s.kaEnabled = true ∧ t.kaTimer = some s.kaInterval)) ∧
    (t.kaOutstanding = s.kaOutstanding ∨ t.kaOutstanding = false) ∧
    (t.queue.map Command.frame).Sublist (s.queue.map Command.frame) ∧
    ∃ es, t.out = s.out ++ es

/-- However a byte sequence is cut into chunks, receiving them one after the other is receiving it
whole: same outputs in the same order, same state (spec/42_reassembler.md, independence of chunking,
which the spec marks as derived). The premise on the buffer is an invariant of the model. -/
def Obligations.ChunkingIsImmaterial : Prop :=
  ∀ (s : State) (chunks : List (List Byte)),
    s.linkUp = true → s.roomFor chunks.flatten.length → decodeFrame s.rxBuf = .needMoreBytes →
    execAll (chunks.map .rx) s = exec (.rx chunks.flatten) s

/-- A frame with one bit of its two CRC bytes flipped is dropped with its LOG event, exactly its length
is consumed, and reassembly goes on behind it (spec/42_reassembler.md, corruption of the CRC bytes,
which the spec marks as derived). -/
def Obligations.FlippedCrcBitIsDropped : Prop :=
  ∀ (s : State) (f tail : List Byte) (m : Message) (k : Nat),
    decodeFrame f = .message m f.length → k < 16 →
    s.linkUp = true → s.rxBuf = [] → s.roomFor (f.length + tail.length) →
    let bad := f.take (f.length - 2) ++ halfBytes (m.crc ^^^ (1#16 <<< k))
    exec (.rx (bad ++ tail)) s =
      exec (.rx tail) { s with out := s.out ++ [.log (.crcError bad)] }

/-- R109: a frame whose checksum fails is consumed whole, at the length the received bytes declare,
with one LOG event and nothing else, and reception goes on behind it. -/
def Obligations.BadFrameIsConsumedAndLogged : Prop :=
  (∀ (s : State) (chunk : List Byte) (len : Nat), s.linkUp = true → s.roomFor chunk.length →
    decodeFrame (s.rxBuf ++ chunk) = .crcError len →
    ((byteAt (s.rxBuf ++ chunk) 1 = 0x06 ∧ len = 8) ∨
      (byteAt (s.rxBuf ++ chunk) 1 = 0x03 ∧
        len = 5 + (byteAt (s.rxBuf ++ chunk) 2).toNat)) ∧
    exec (.rx chunk) s = exec (.rx [])
      { s with rxBuf := (s.rxBuf ++ chunk).drop len,
               out := s.out ++ [.log (.crcError ((s.rxBuf ++ chunk).take len))] }) ∧
  (∀ s : State, s.linkUp = true → s.rxBuf = [] → s.roomFor 8 →
    exec (.rx [0x01, 0x06, 0xFA, 0x00, 0xC4, 0x00, 0xEB, 0xD3]) s = .next
      { s with out := s.out ++
          [.log (.crcError [0x01, 0x06, 0xFA, 0x00, 0xC4, 0x00, 0xEB, 0xD3])] } ∧
    exec (.rx [0x01, 0x06, 0xFA, 0x00, 0xC4, 0x00, 0xEB, 0xD2]) s =
      exec (.onMessage { address := 0x01, function := 0x06, value := 50176, crc := 0xEBD2 }) s)

/-- A stalled session stays stalled under every operation but those that end it: bytes only pile up,
and no Message is delivered, since RX changes nothing else (spec/42_reassembler.md, stall; what ends it
is decision D6). -/
def Obligations.StallPersists : Prop :=
  (∀ (i : Instr) (s t : State), s.linkUp = true → s.rxStalled = true → endsSession i = false →
    exec i s = .next t → t.linkUp = true ∧ t.rxStalled = true ∧ ∃ more, t.rxBuf = s.rxBuf ++ more) ∧
  (∀ (s : State) (chunk : List Byte), s.linkUp = true → s.rxStalled = true →
    s.roomFor chunk.length → exec (.rx chunk) s = .next { s with rxBuf := s.rxBuf ++ chunk })

/-- An inbound frame is its bytes arriving as one chunk (the model's reading of the frame rows, log 10). -/
def Obligations.InboundFramesArriveAsChunks : Prop :=
  ∀ (s : State) (addr : Byte) (data : List Byte) (reg value crc : Half),
    exec (.rdrsp addr data crc) s =
      exec (.rx ([addr, 0x03, BitVec.ofNat 8 data.length] ++ data ++
        [crc.extractLsb' 8 8, crc.extractLsb' 0 8])) s ∧
    exec (.wrrsp addr reg value crc) s =
      exec (.rx [addr, 0x06, reg.extractLsb' 8 8, reg.extractLsb' 0 8, value.extractLsb' 8 8,
        value.extractLsb' 0 8, crc.extractLsb' 8 8, crc.extractLsb' 0 8]) s

/-- A valid response on the line, into an empty buffer: it resolves the Command in flight with its value
and sends the next one; read and write responses alike, whatever the Command's kind and whatever the
address (spec/43_correlator.md; decisions D9, D10, D20). -/
def Obligations.ResponseResolvesHeadAndSendsNext : Prop :=
  ∀ (s : State) (c : Command) (rest : List Command) (h : Handle),
    s.linkUp = true → s.rxBuf = [] → s.queue = c :: rest → c.st = .inFlight →
    c.origin = .caller h → (∀ d ∈ rest, d.st = .queued) →
    (∀ (addr : Byte) (data : List Byte), data.length ≤ 255 → s.roomFor (5 + data.length) →
      exec (.rdrsp addr data (computeCRC ([addr, 0x03, BitVec.ofNat 8 data.length] ++ data))) s =
        .next { s with
          queue := promoteHead rest
          out := s.out ++ [.resolve h (.ok (be data))] ++
            rest.head?.toList.map fun d => .tx d.frame }) ∧
    (∀ (addr : Byte) (reg value : Half), s.roomFor 8 →
      exec (.wrrsp addr reg value
          (computeCRC ([addr, 0x06] ++ halfBytes reg ++ halfBytes value))) s =
        .next { s with
          queue := promoteHead rest
          out := s.out ++ [.resolve h (.ok value.toNat)] ++
            rest.head?.toList.map fun d => .tx d.frame })

/-! ## The correlator -/

/-- R119. -/
def Obligations.GateSendsTheOldestQueued : Prop :=
  (∀ s : State, (∃ c ∈ s.queue, c.st = .inFlight) → exec .transmit s = .next s) ∧
  (∀ s : State, (∀ c ∈ s.queue, c.st ≠ .queued) → exec .transmit s = .next s) ∧
  (∀ (s : State) (c : Command) (rest : List Command),
    s.queue = c :: rest → (∀ d ∈ s.queue, d.st = .queued) →
    exec .transmit s = .next
      { s with queue := { c with st := .inFlight } :: rest, out := s.out ++ [.tx c.frame] })

/-- DELIVER: a caller's outcome goes to RESOLVE, the keepalive's to KA_DONE (spec/43_correlator.md). -/
def Obligations.DeliverRoutesTheOutcome : Prop :=
  ∀ (s : State) (h : Handle) (o : CmdOutcome),
    exec (.deliver (.caller h) o) s = .next { s with out := s.out ++ [.resolve h o] } ∧
    exec (.deliver .keepalive o) s = exec (.kaDone o) s ∧
    ∃ t, exec (.deliver .keepalive o) s = .next t

/-- R115; where the queue is finite, it has room for one Command more. -/
def Obligations.ReadSubmitsItsFrame : Prop :=
  (∀ (s : State) (reg : Half) (h : Handle),
    let f := encRdFrame s.devAddr reg
    exec (.read reg h) s = exec (.submit f .read reg 0x0001 (.caller h)) s ∧
    (s.linkUp = false → exec (.read reg h) s =
      .next { s with out := s.out ++ [.resolve h (.err .transportUnavailable)] }) ∧
    (s.linkUp = true → s.roomInQueue → s.queue = [] → exec (.read reg h) s = .next
      { s with
        queue := [{ kind := .read, reg := reg, value := 0x0001, frame := f, origin := .caller h,
                    st := .inFlight }]
        out := s.out ++ [.tx f] }) ∧
    (s.linkUp = true → s.roomInQueue → s.busy = true → exec (.read reg h) s = .next
      { s with
        queue := s.queue ++ [{ kind := .read, reg := reg, value := 0x0001, frame := f,
                               origin := .caller h, st := .queued }] })) ∧
  encRdFrame 0x01 0xFD06 = [0x01, 0x03, 0xFD, 0x06, 0x00, 0x01, 0x55, 0xA7]

/-- R116; where the queue is finite, it has room for one Command more. -/
def Obligations.WriteSubmitsItsFrame : Prop :=
  (∀ (s : State) (reg value : Half) (h : Handle),
    let f := encWrFrame s.devAddr reg value
    exec (.write reg value h) s = exec (.submit f .write reg value (.caller h)) s ∧
    (s.linkUp = false → exec (.write reg value h) s =
      .next { s with out := s.out ++ [.resolve h (.err .transportUnavailable)] }) ∧
    (s.linkUp = true → s.roomInQueue → s.queue = [] → exec (.write reg value h) s = .next
      { s with
        queue := [{ kind := .write, reg := reg, value := value, frame := f, origin := .caller h,
                    st := .inFlight }]
        out := s.out ++ [.tx f] }) ∧
    (s.linkUp = true → s.roomInQueue → s.busy = true → exec (.write reg value h) s = .next
      { s with
        queue := s.queue ++ [{ kind := .write, reg := reg, value := value, frame := f,
                               origin := .caller h, st := .queued }] }) ∧
    (s.linkUp = true → s.roomInQueue → s.queue = [] → s.rxBuf = [] → s.roomFor 8 →
      execAll [.write reg value h, .rx f] s = .next
        { s with out := s.out ++ [.tx f, .resolve h (.ok value.toNat)] })) ∧
  encWrFrame 0x01 0xFA00 0xC400 = [0x01, 0x06, 0xFA, 0x00, 0xC4, 0x00, 0xEB, 0xD2]

/-- SUBMIT: without a link the outcome at once and no Command; into a full finite queue a refusal
(decision D8); else the Command at the back and then the gate (spec/43_correlator.md). -/
def Obligations.SubmitQueuesOrFailsAtOnce : Prop :=
  ∀ (s : State) (frame : List Byte) (kind : CmdKind) (reg value : Half) (origin : Origin),
    (s.linkUp = false → exec (.submit frame kind reg value origin) s =
      exec (.deliver origin (.err .transportUnavailable)) s) ∧
    (s.linkUp = true → s.cfg.queueCap = some s.queue.length →
      exec (.submit frame kind reg value origin) s = .refused .queueFull) ∧
    (s.linkUp = true → s.roomInQueue →
      exec (.submit frame kind reg value origin) s = exec .transmit { s with queue := s.queue ++
        [{ kind := kind, reg := reg, value := value, frame := frame, origin := origin,
           st := .queued }] } ∧
      ∃ t, exec (.submit frame kind reg value origin) s = .next t ∧
        (∃ es, t.out = s.out ++ es) ∧ t = { s with queue := t.queue, out := t.out } ∧
        t.queue.map Command.origin = s.queue.map Command.origin ++ [origin] ∧
        t.queue.map Command.frame = s.queue.map Command.frame ++ [frame])

/-- ON_MESSAGE: the Command in flight is removed, its owner told, the next one sent, in that order
(decision D20, log 26), and of the Message only the value counts (decisions D9 and D10, log 22); with none
in flight the Message is dropped and logged (decision D11, log 23; spec/43_correlator.md). -/
def Obligations.MessageResolvesTheCommandInFlight : Prop :=
  (∀ (s : State) (m : Message) (before after : List Command) (c : Command),
    s.queue = before ++ c :: after → (∀ d ∈ before, d.st ≠ .inFlight) → c.st = .inFlight →
    ∃ t, exec (.deliver c.origin (.ok m.value)) { s with queue := before ++ after } = .next t ∧
      exec (.onMessage m) s = exec .transmit t ∧ ∃ u, exec (.onMessage m) s = .next u) ∧
  (∀ (s : State) (m : Message), (∀ d ∈ s.queue, d.st ≠ .inFlight) →
    exec (.onMessage m) s = .next { s with out := s.out ++ [.log (.unsolicited m)] })

/-- CONNECT opens a session with an empty buffer and latches the address; with one open it is refused
(decisions D4, D6, D26). -/
def Obligations.ConnectOpensAnEmptySession : Prop :=
  ∀ (s : State) (addr : Byte),
    (s.linkUp = false → exec (.connect addr) s =
      .next { s with linkUp := true, devAddr := addr, rxBuf := [] }) ∧
    (s.linkUp = true → exec (.connect addr) s = .refused .connectWhileConnected)

/-- Link loss, by DISCONNECT and by TRANSPORT_FAIL alike (decision D21): every Command of the queue is
failed with LinkClosed, the oldest first (D20), the scheduler stops, queue and buffer (D6) are empty;
without a session nothing happens (D26). -/
def Obligations.LinkLossFailsEveryCommand : Prop :=
  ∀ s : State,
    (s.linkUp = false → exec .disconnect s = .next s) ∧
    (s.linkUp = true → exec .disconnect s = .next
      { s with
        linkUp := false
        queue := []
        rxBuf := []
        kaEnabled := false
        kaTimer := none
        kaOutstanding := s.kaOutstanding && !(s.queue.any Command.isKeepalive)
        out := s.out ++ s.queue.flatMap (closedEvents s.kaObserver) }) ∧
    exec .transportFail s = exec .disconnect s

/-- Three Commands before any response, then three valid frames: each is resolved by its own response,
in submission order, and each next frame goes out only after the response before it
(spec/43_correlator.md, FIFO correlation, which the spec marks as derived). That the outcome comes before
the next frame is decision D20 (log 26); that any valid frame resolves, of whatever kind and address, is
decisions D9 and D10 (log 22). -/
def Obligations.ThreeCommandsResolveInOrder : Prop :=
  ∀ (s : State) (r1 r2 v2 r3 : Half) (h1 h2 h3 : Handle) (f1 f2 f3 : List Byte) (m1 m2 m3 : Message),
    s.linkUp = true → s.queue = [] → s.rxBuf = [] →
    s.cfg.queueCap = none → s.cfg.rxBufCap = none →
    decodeFrame f1 = .message m1 f1.length → decodeFrame f2 = .message m2 f2.length →
    decodeFrame f3 = .message m3 f3.length →
    execAll [.read r1 h1, .write r2 v2 h2, .read r3 h3, .rx f1, .rx f2, .rx f3] s = .next
      { s with out := s.out ++
        [.tx (encRdFrame s.devAddr r1), .resolve h1 (.ok m1.value),
         .tx (encWrFrame s.devAddr r2 v2), .resolve h2 (.ok m2.value),
         .tx (encRdFrame s.devAddr r3), .resolve h3 (.ok m3.value)] }

/-- Outcomes are delivered in submission order, each handle exactly once: what has been resolved,
followed by what is pending, only ever grows at the end, by the handle handed in
(spec/20_memory.md, what a caller may rely on; spec/43_correlator.md, DELIVER). The order at link loss is
decision D20 (log 26). RESET delivers nothing (decision D5) and is left out. The premise is an invariant of the model. -/
def Obligations.OutcomesComeInSubmissionOrder : Prop :=
  ∀ (i : Instr) (s t : State), s.QueueInv → i.fromOutside = true → i ≠ .reset →
    exec i s = .next t →
    resolvedHandles t.out ++ pendingHandles t.queue =
      resolvedHandles s.out ++ pendingHandles s.queue ++ newHandles i

/-- Frames go out in the order their Commands were submitted, each exactly once: what has been sent,
followed by what is queued, only ever grows at the end, by the frame submitted (spec/20_memory.md, what
a caller may rely on). Events that drop the queue are left out. -/
def Obligations.FramesGoOutInSubmissionOrder : Prop :=
  ∀ (i : Instr) (s t : State), i.fromOutside = true → endsSession i = false →
    exec i s = .next t →
    txFrames t.out ++ queuedFrames t.queue =
      txFrames s.out ++ queuedFrames s.queue ++ newFrames i s

/-- The transmission gate over any stretch of events: as many frames are sent as responses are
delivered, up to the Command in flight at either end. An observer is assumed, so that the keepalive's
responses can be counted too (spec/43_correlator.md, the gate as a property, which the spec marks as
derived). -/
def Obligations.TransmissionsBalanceResponses : Prop :=
  ∀ (i : Instr) (s t : State), s.kaObserver = true → i.fromOutside = true →
    endsSession i = false → exec i s = .next t →
    (txFrames t.out).length + inFlightCount s.queue + okCount s.out =
      (txFrames s.out).length + inFlightCount t.queue + okCount t.out

/-! ## The keepalive scheduler -/

/-- KA_START and KA_STOP (spec/44_keepalive.md; decisions D16 to D19): a zero interval is refused; the
wait is armed at once unless a probe is outstanding; stopping cancels the wait and touches nothing
else. -/
def Obligations.KeepaliveStartsAndStops : Prop :=
  (∀ (s : State) (observer : Bool), exec (.kaStart 0 observer) s = .refused .zeroInterval) ∧
  (∀ (s : State) (interval : Nat) (observer : Bool), interval ≠ 0 →
    (s.kaOutstanding = false → exec (.kaStart interval observer) s = .next
      { s with kaEnabled := true, kaInterval := interval, kaObserver := observer,
               kaTimer := some interval }) ∧
    (s.kaOutstanding = true → exec (.kaStart interval observer) s = .next
      { s with kaEnabled := true, kaInterval := interval, kaObserver := observer })) ∧
  (∀ s : State, exec .kaStop s = .next { s with kaEnabled := false, kaTimer := none })

/-- TICK (spec/44_keepalive.md; decision D16), with TICK_MS a parameter that is 1 by default (log 31):
nothing while not armed, TICK_MS less while waiting, and at the end of the wait the timer is disarmed and
KA_FIRE follows, which on an idle session transmits the probe. -/
def Obligations.TickCountsTheWaitDown : Prop :=
  ∀ s : State,
    (s.kaTimer = none → exec .tick s = .next s) ∧
    (∀ n : Nat, s.kaTimer = some n → s.cfg.tickMs < n →
      exec .tick s = .next { s with kaTimer := some (n - s.cfg.tickMs) }) ∧
    (∀ n : Nat, s.kaTimer = some n → n ≤ s.cfg.tickMs →
      exec .tick s = exec .kaFire { s with kaTimer := none }) ∧
    (∀ n : Nat, s.kaTimer = some n → n ≤ s.cfg.tickMs → s.linkUp = true → s.roomInQueue →
      s.queue = [] → exec .tick s = .next
        { s with
          kaTimer := none
          kaOutstanding := true
          queue := [{ kind := .probe, reg := s.cfg.kaReg, value := s.cfg.kaValue,
                      frame := encProbeFrame s.cfg s.devAddr, origin := .keepalive,
                      st := .inFlight }]
          out := s.out ++ [.tx (encProbeFrame s.cfg s.devAddr)] })

/-- KA_FIRE (spec/44_keepalive.md), with the refusal of a full finite queue (decision D8, log 21), the
failure at once without a link (decision D19, log 25) and the bytes of the default probe (decision D14,
log 24). -/
def Obligations.KeepaliveFiresAProbe : Prop :=
  (∀ s : State,
    let f := encProbeFrame s.cfg s.devAddr
    (s.linkUp = true → s.roomInQueue → s.queue = [] → exec .kaFire s = .next
      { s with
        kaOutstanding := true
        queue := [{ kind := .probe, reg := s.cfg.kaReg, value := s.cfg.kaValue, frame := f,
                    origin := .keepalive, st := .inFlight }]
        out := s.out ++ [.tx f] }) ∧
    (s.linkUp = true → s.roomInQueue → s.busy = true → exec .kaFire s = .next
      { s with
        kaOutstanding := true
        queue := s.queue ++ [{ kind := .probe, reg := s.cfg.kaReg, value := s.cfg.kaValue,
                               frame := f, origin := .keepalive, st := .queued }] }) ∧
    (s.linkUp = true → s.cfg.queueCap = some s.queue.length →
      exec .kaFire s = .refused .queueFull) ∧
    (s.linkUp = false → exec .kaFire s = exec (.kaDone (.err .transportUnavailable)) s ∧
      ∃ t, exec .kaFire s = .next t)) ∧
  encProbeFrame Config.default 0x01 = [0x01, 0x03, 0xFD, 0x00, 0x00, 0x01, 0xB5, 0xA6]

/-- KA_DONE (spec/44_keepalive.md; decision D29): reports to the observer if there is one, and arms the
wait again only if still enabled. -/
def Obligations.KeepaliveReportsAndRearms : Prop :=
  ∀ (s : State) (o : CmdOutcome), exec (.kaDone o) s = .next
    { s with
      kaOutstanding := false
      out := if s.kaObserver then s.out ++ [.kaResult o] else s.out
      kaTimer := if s.kaEnabled then some s.kaInterval else s.kaTimer }

/-- Cadence on an idle session (spec/44_keepalive.md, which the spec marks as derived; decision D16, with
TICK_MS a parameter, log 31): nothing goes out while the ticks stand for less than the interval, exactly
one probe at the tick that reaches it (the interval's last tick where TICK_MS is 1), and none at all once
the scheduler is stopped before it. -/
def Obligations.ProbeGoesOutAtTheIntervalsLastTick : Prop :=
  ∀ (s : State) (interval : Nat) (observer : Bool) (k : Nat),
    s.linkUp = true → s.queue = [] → s.kaOutstanding = false → s.cfg.queueCap ≠ some 0 →
    k * s.cfg.tickMs < interval →
    execAll (.kaStart interval observer :: List.replicate k .tick) s = .next
      { s with kaEnabled := true, kaInterval := interval, kaObserver := observer,
               kaTimer := some (interval - k * s.cfg.tickMs) } ∧
    (interval ≤ (k + 1) * s.cfg.tickMs →
      execAll (.kaStart interval observer :: List.replicate (k + 1) .tick) s = .next
        { s with
          kaEnabled := true
          kaInterval := interval
          kaObserver := observer
          kaTimer := none
          kaOutstanding := true
          queue := [{ kind := .probe, reg := s.cfg.kaReg, value := s.cfg.kaValue,
                      frame := encProbeFrame s.cfg s.devAddr, origin := .keepalive,
                      st := .inFlight }]
          out := s.out ++ [.tx (encProbeFrame s.cfg s.devAddr)] }) ∧
    (∀ j, execAll (.kaStart interval observer :: (List.replicate k .tick ++ .kaStop ::
        List.replicate j .tick)) s = .next
        { s with kaEnabled := false, kaInterval := interval, kaObserver := observer,
                 kaTimer := none })

/-! ## The whole block -/

/-- The queue, keepalive and buffer invariants together are kept by every step, from every state that
meets them (the spec asks a model to prove them; it marks them as derived). -/
def Obligations.EveryStepKeepsInvariant : Prop :=
  ∀ s t : State, s.Inv → step s = .next t → t.Inv

/-- An operation never answers a fault, since the overflow is a mark with a next state (decision D7, log
13); it is refused exactly in the cases the spec lists (decisions D8, D16, D26), and in every other case
it completes. -/
def Obligations.OperationsAreRefusedExactlyAsListed : Prop :=
  ∀ (i : Instr) (s : State),
    (∀ r, exec i s ≠ .fault r) ∧
    (∀ r, exec i s = .refused r ↔ refusalOf i s = some r) ∧
    (refusalOf i s = none → ∃ t, exec i s = .next t)

/-- Whole-block constants: nothing writes the configuration (log 4) or the environment's inputs (log 1);
only CONNECT, with no session open, and RESET write the device address (decisions D4, D5); the fault
mark is set only by bytes that do not fit and cleared only by RESET (decision D7). -/
def Obligations.OnlyTheirWritersChangeThem : Prop :=
  ∀ (i : Instr) (s t : State), exec i s = .next t →
    t.cfg = s.cfg ∧ t.inputs = s.inputs ∧
    (t.devAddr ≠ s.devAddr →
      (i = .connect t.devAddr ∧ s.linkUp = false) ∨ (i = .reset ∧ t.devAddr = s.cfg.devAddrDefault)) ∧
    (s.fault ≠ none → i ≠ .reset → t.fault = s.fault) ∧
    (s.fault = none → t.fault ≠ none → s.linkUp = true ∧ ∃ bs, ¬ s.roomFor bs.length ∧
      (i = .rx bs ∨ (i.port = some .inbound ∧ encode i = bs)))

/-- The only outcomes that leave the block are `Ok`, `TransportUnavailable` (of a submission without a
link) and `LinkClosed` (of link loss); `Timeout`, `CrcError` and `MalformedFrame` never do
(spec/60_exceptions.md; decision D22 for Timeout). RESET emits nothing. -/
def Obligations.OnlyTwoErrorsAreEverDelivered : Prop :=
  ∀ (i : Instr) (s t : State), i.fromOutside = true → i ≠ .reset → exec i s = .next t →
    ∃ es, t.out = s.out ++ es ∧
      ∀ e ∈ es, ∀ o, e.outcome? = some o →
        (∃ v, o = .ok v) ∨
        (o = .err .transportUnavailable ∧ s.linkUp = false) ∨
        (o = .err .linkClosed ∧ s.linkUp = true ∧ (i = .disconnect ∨ i = .transportFail))

/-- Handles are opaque: renaming them, in any way, before an operation or after it comes to the same
(spec/10_state.md, the Command record; decision D3). -/
def Obligations.HandlesAreOpaque : Prop :=
  ∀ (f : Handle → Handle) (i : Instr) (s : State),
    exec (Instr.rename f i) (s.rename f) =
      match exec i s with
      | .next t => .next (t.rename f)
      | .fault r => .fault r
      | .refused r => .refused r

/-- No operation encodes a function code but 0x03, 0x06 and the configured one of the probe
(spec/30_encoding.md, reserved encodings; the probe's fields are decision D14). Bytes on the outbound port
are a well-formed instruction only if they are a frame of ENC_RD, ENC_WR or the configured probe, and any
other outbound frame is refused by the step (log 32). If every frame of the queue is one, every operation
but SUBMIT, which takes its frame from the three that call it, leaves it so, transmits only such frames
and answers only such a frame. -/
def Obligations.OnlyKnownFramesAreEncoded : Prop :=
  (∀ (c : Config) (bs : List Byte) (i : Instr), decode .outbound bs = .instr i → i.wf c = true →
    builtUnder c bs) ∧
  (∀ (s : State) (bs : List Byte) (rest : List Input), s.inputs = .bits .outbound bs :: rest →
    ¬ builtUnder s.cfg bs → ∃ why, step s = .refused (.input why)) ∧
  (∀ (c : Config) (f : List Byte), builtUnder c f →
    byteAt f 1 = 0x03 ∨ byteAt f 1 = 0x06 ∨ byteAt f 1 = c.kaFunc) ∧
  (∀ (i : Instr) (s t : State), (∀ f k r v o, i ≠ .submit f k r v o) →
    (∀ c ∈ s.queue, builtUnder s.cfg c.frame) → exec i s = .next t →
    (∀ c ∈ t.queue, builtUnder t.cfg c.frame) ∧
    (∀ f ∈ txFrames t.out, f ∈ txFrames s.out ∨ builtUnder t.cfg f) ∧
    (∀ f, t.ret = some (.frame f) → s.ret = some (.frame f) ∨ builtUnder t.cfg f))
end

