-- ==== Sys2Proof/Laws/Words.lean ====
section
/-! SUPPORT. The algebra of splitting and joining 16-bit fields, and the CRC step as a linear map. -/

namespace Sys2Proof.Machine

theorem join_getLsbD (x y : Byte) (i : Nat) :
    (join x y).getLsbD i = if i < 8 then y.getLsbD i else x.getLsbD (i - 8) := by
  unfold join; exact BitVec.getLsbD_append

theorem hi8_getLsbD (a : Half) (i : Nat) :
    (hi8 a).getLsbD i = (decide (i < 8) && a.getLsbD (8 + i)) := by
  unfold hi8; simp [BitVec.getLsbD_extractLsb']

theorem lo8_getLsbD (a : Half) (i : Nat) :
    (lo8 a).getLsbD i = (decide (i < 8) && a.getLsbD i) := by
  unfold lo8; simp [BitVec.getLsbD_extractLsb']

@[simp] theorem join_hi8_lo8 (a : Half) : join (hi8 a) (lo8 a) = a := by
  apply BitVec.eq_of_getLsbD_eq; intro i hi
  rw [join_getLsbD, hi8_getLsbD, lo8_getLsbD]
  split
  · simp_all
  · have : 8 + (i - 8) = i := by omega
    rw [this]; simp; omega

@[simp] theorem hi8_join (x y : Byte) : hi8 (join x y) = x := by
  apply BitVec.eq_of_getLsbD_eq; intro i hi
  rw [hi8_getLsbD, join_getLsbD]; simp [hi]

@[simp] theorem lo8_join (x y : Byte) : lo8 (join x y) = y := by
  apply BitVec.eq_of_getLsbD_eq; intro i hi
  rw [lo8_getLsbD, join_getLsbD]; simp [hi]

/-- A joined field as a number, the first byte the more significant (R46). -/
theorem join_toNat (x y : Byte) : (join x y).toNat = x.toNat * 256 + y.toNat := by
  unfold join
  rw [BitVec.toNat_append, ← Nat.shiftLeft_add_eq_or_of_lt y.isLt, Nat.shiftLeft_eq]

/-- XOR with a zero-extended byte touches the low byte only (R81). -/
theorem join_xor_zeroExtend (x y z : Byte) : join x y ^^^ z.zeroExtend 16 = join x (y ^^^ z) := by
  apply BitVec.eq_of_getLsbD_eq; intro i hi
  rw [BitVec.getLsbD_xor, join_getLsbD, join_getLsbD, BitVec.getLsbD_setWidth]
  by_cases h : i < 8
  · simp [h, hi]
  · simp [h, hi]; rw [BitVec.getLsbD_of_ge z i (by omega)]; simp

theorem zeroExtend_eq_join (y : Byte) : y.zeroExtend 16 = join 0 y := by
  apply BitVec.eq_of_getLsbD_eq; intro i hi
  rw [BitVec.getLsbD_setWidth, join_getLsbD]; split
  · simp; omega
  · simp [BitVec.getLsbD_of_ge _ _ (show 8 ≤ i by omega)]

/-- The shift and the conditional XOR, apart (R80). -/
theorem crcBit_eq (a : Half) :
    crcBit a = (a >>> 1) ^^^ (if a.getLsbD 0 then 0xA001 else 0) := by
  unfold crcBit; split <;> simp

theorem crcBit_xor (x y : Half) : crcBit (x ^^^ y) = crcBit x ^^^ crcBit y := by
  have xor4 : ∀ a b c d : Half, a ^^^ b ^^^ (c ^^^ d) = a ^^^ c ^^^ (b ^^^ d) := by
    intro a b c d; ac_rfl
  rw [crcBit_eq, crcBit_eq, crcBit_eq, BitVec.ushiftRight_xor_distrib, BitVec.getLsbD_xor, xor4]
  congr 1
  cases x.getLsbD 0 <;> cases y.getLsbD 0 <;> rfl

theorem crcByte_eq_iterate (a : Half) (b : Byte) :
    crcByte a b = crcBit^[8] (a ^^^ b.zeroExtend 16) := rfl

/-- Eight steps of a value whose low byte is zero only shift (checked for all 256 high bytes). -/
theorem crcBit_iterate_high (x : Byte) : crcBit^[8] (join x 0) = x.zeroExtend 16 := by
  revert x; decide +kernel

@[simp] theorem crcAcc_nil : crcAcc [] = 0xFFFF := rfl

end Sys2Proof.Machine
end

