-- ==== Sys2Proof/Laws/Codec.lean ====
section
/-! SUPPORT. What the length rule and DECODE can answer, said once (spec/41_codec.md R94 to R99). -/

namespace Sys2Proof.Machine

@[simp] theorem slice_zero (l : List Byte) (n : Nat) : slice l 0 n = l.take n := by simp [slice]

theorem byteAt_append (buf s : List Byte) (i : Nat) (h : i < buf.length) :
    byteAt (buf ++ s) i = byteAt buf i := by
  simp only [byteAt]; exact List.getD_append _ _ _ _ h

/-- An outbound frame as its eight bytes. -/
theorem buildFrame_eq (addr func : Byte) (reg value : Half) :
    let c := computeCRC [addr, func, hi8 reg, lo8 reg, hi8 value, lo8 value]
    buildFrame addr func reg value =
      [addr, func, hi8 reg, lo8 reg, hi8 value, lo8 value, hi8 c, lo8 c] := by
  simp [buildFrame, withCrc, halfBytes]

/-- The length rule, whole (R95). -/
theorem frameLength_eq_some (buf : List Byte) (len : Nat) :
    frameLength buf = some len ↔ 2 ≤ buf.length ∧
      ((byteAt buf 1 = 0x06 ∧ len = 8) ∨
        (byteAt buf 1 = 0x03 ∧ 3 ≤ buf.length ∧ len = 3 + (byteAt buf 2).toNat + 2)) := by
  unfold frameLength
  have h36 : (3 : Byte) ≠ 6 := by decide
  by_cases h : buf.length < 2
  · rw [if_pos h]; simp; omega
  · rw [if_neg h]
    by_cases h6 : byteAt buf 1 = 6
    · rw [if_pos h6, h6]; simp; omega
    · rw [if_neg h6]
      by_cases h3 : byteAt buf 1 = 3
      · rw [if_pos h3]
        by_cases hl : buf.length < 3
        · rw [if_pos hl]; simp only [reduceCtorEq, false_iff]; rintro ⟨-, ⟨h, -⟩ | ⟨-, h, -⟩⟩
          · exact h6 h
          · omega
        · rw [if_neg hl]
          constructor
          · intro e; injection e with e; exact ⟨by omega, Or.inr ⟨h3, by omega, e.symm⟩⟩
          · rintro ⟨-, ⟨h, -⟩ | ⟨-, -, e⟩⟩
            · exact absurd h h6
            · rw [e]
      · rw [if_neg h3]; simp only [reduceCtorEq, false_iff]; rintro ⟨-, ⟨h, -⟩ | ⟨h, -⟩⟩
        · exact h6 h
        · exact h3 h

/-- A decided length is from 5 to 260 (R95). -/
theorem frameLength_bounds {buf : List Byte} {len : Nat} (h : frameLength buf = some len) :
    5 ≤ len ∧ len ≤ 260 := by
  rw [frameLength_eq_some] at h; have := (byteAt buf 2).isLt; omega

/-- DECODE over a complete frame (R96, R98, R99). -/
theorem decodeFrame_of_complete (buf : List Byte) (len : Nat) (h : frameLength buf = some len)
    (hl : len ≤ buf.length) :
    decodeFrame buf =
      if computeCRC (buf.take (len - 2)) ≠ join (byteAt buf (len - 2)) (byteAt buf (len - 1)) then
        .crcError len
      else .message
        { address := byteAt buf 0, function := byteAt buf 1, value := frameValue buf,
          crc := join (byteAt buf (len - 2)) (byteAt buf (len - 1)) } len := by
  unfold decodeFrame
  simp only [h, slice_zero]
  rw [if_neg (by omega)]

/-- When DECODE waits (R95, R97). -/
theorem decodeFrame_needMoreBytes (buf : List Byte) :
    decodeFrame buf = .needMoreBytes ↔
      ∀ len, frameLength buf = some len → buf.length < len := by
  cases h : frameLength buf with
  | none => simp [decodeFrame, h]
  | some len =>
    by_cases hl : buf.length < len
    · simp [decodeFrame, h, hl]
    · rw [decodeFrame_of_complete buf len h (by omega)]; split <;> simp [hl]

/-- What a decided frame's length is (R95). -/
theorem decodeFrame_decided {buf : List Byte} {len : Nat}
    (h : decodeFrame buf = .crcError len ∨ ∃ m, decodeFrame buf = .message m len) :
    frameLength buf = some len ∧ 5 ≤ len ∧ len ≤ buf.length := by
  have hn : decodeFrame buf ≠ .needMoreBytes := by rcases h with h | ⟨m, h⟩ <;> simp [h]
  rw [Ne, decodeFrame_needMoreBytes] at hn
  push Not at hn
  obtain ⟨k, hk, hl⟩ := hn
  rw [decodeFrame_of_complete _ k hk hl] at h
  have e : k = len := by split at h <;> simp at h <;> exact h
  subst e
  exact ⟨hk, (frameLength_bounds hk).1, hl⟩

theorem frameLength_append {buf : List Byte} {len : Nat} (s : List Byte)
    (h : frameLength buf = some len) : frameLength (buf ++ s) = some len := by
  rw [frameLength_eq_some] at h ⊢
  obtain ⟨h2, h⟩ := h
  refine ⟨by rw [List.length_append]; omega, ?_⟩
  rw [byteAt_append _ _ _ (by omega)]
  rcases h with h | ⟨h, h3, hl⟩
  · exact Or.inl h
  · right; rw [byteAt_append _ _ _ (by omega)]
    exact ⟨h, by rw [List.length_append]; omega, hl⟩

@[simp] theorem be_nil : be [] = 0 := rfl

end Sys2Proof.Machine
end

