-- ==== Sys2Proof/Laws/State.lean ====
section
/-! SUPPORT. One lemma per field per update of State: what each shared operation leaves alone. Where an
update is a case split, its own lemma unfolds it once. -/

namespace Sys2Proof.Machine

/-! `emit` writes `out` only. -/

@[simp] theorem emit_out (e : OutEvent) (s : State) : (emit e s).out = s.out ++ [e] := rfl
@[simp] theorem emit_cfg (e : OutEvent) (s : State) : (emit e s).cfg = s.cfg := rfl
@[simp] theorem emit_linkUp (e : OutEvent) (s : State) : (emit e s).linkUp = s.linkUp := rfl
@[simp] theorem emit_devAddr (e : OutEvent) (s : State) : (emit e s).devAddr = s.devAddr := rfl
@[simp] theorem emit_rxBuf (e : OutEvent) (s : State) : (emit e s).rxBuf = s.rxBuf := rfl
@[simp] theorem emit_queue (e : OutEvent) (s : State) : (emit e s).queue = s.queue := rfl
@[simp] theorem emit_kaEnabled (e : OutEvent) (s : State) : (emit e s).kaEnabled = s.kaEnabled := rfl
@[simp] theorem emit_kaObserver (e : OutEvent) (s : State) : (emit e s).kaObserver = s.kaObserver := rfl
@[simp] theorem emit_kaInterval (e : OutEvent) (s : State) : (emit e s).kaInterval = s.kaInterval := rfl
@[simp] theorem emit_kaTimer (e : OutEvent) (s : State) : (emit e s).kaTimer = s.kaTimer := rfl
@[simp] theorem emit_kaOutstanding (e : OutEvent) (s : State) : (emit e s).kaOutstanding = s.kaOutstanding := rfl
@[simp] theorem emit_fault (e : OutEvent) (s : State) : (emit e s).fault = s.fault := rfl
@[simp] theorem emit_ret (e : OutEvent) (s : State) : (emit e s).ret = s.ret := rfl
@[simp] theorem emit_inputs (e : OutEvent) (s : State) : (emit e s).inputs = s.inputs := rfl

/-! `answer` writes `ret` only. -/

@[simp] theorem answer_ret (r : Ret) (s : State) : (answer r s).ret = some r := rfl
@[simp] theorem answer_cfg (r : Ret) (s : State) : (answer r s).cfg = s.cfg := rfl
@[simp] theorem answer_linkUp (r : Ret) (s : State) : (answer r s).linkUp = s.linkUp := rfl
@[simp] theorem answer_devAddr (r : Ret) (s : State) : (answer r s).devAddr = s.devAddr := rfl
@[simp] theorem answer_rxBuf (r : Ret) (s : State) : (answer r s).rxBuf = s.rxBuf := rfl
@[simp] theorem answer_queue (r : Ret) (s : State) : (answer r s).queue = s.queue := rfl
@[simp] theorem answer_kaEnabled (r : Ret) (s : State) : (answer r s).kaEnabled = s.kaEnabled := rfl
@[simp] theorem answer_kaObserver (r : Ret) (s : State) : (answer r s).kaObserver = s.kaObserver := rfl
@[simp] theorem answer_kaInterval (r : Ret) (s : State) : (answer r s).kaInterval = s.kaInterval := rfl
@[simp] theorem answer_kaTimer (r : Ret) (s : State) : (answer r s).kaTimer = s.kaTimer := rfl
@[simp] theorem answer_kaOutstanding (r : Ret) (s : State) : (answer r s).kaOutstanding = s.kaOutstanding := rfl
@[simp] theorem answer_fault (r : Ret) (s : State) : (answer r s).fault = s.fault := rfl
@[simp] theorem answer_out (r : Ret) (s : State) : (answer r s).out = s.out := rfl
@[simp] theorem answer_inputs (r : Ret) (s : State) : (answer r s).inputs = s.inputs := rfl

/-! `openSession` writes `linkUp`, `devAddr`, `rxBuf`. -/

@[simp] theorem openSession_linkUp (a : Byte) (s : State) : (openSession a s).linkUp = true := rfl
@[simp] theorem openSession_devAddr (a : Byte) (s : State) : (openSession a s).devAddr = a := rfl
@[simp] theorem openSession_rxBuf (a : Byte) (s : State) : (openSession a s).rxBuf = [] := rfl
@[simp] theorem openSession_cfg (a : Byte) (s : State) : (openSession a s).cfg = s.cfg := rfl
@[simp] theorem openSession_queue (a : Byte) (s : State) : (openSession a s).queue = s.queue := rfl
@[simp] theorem openSession_kaEnabled (a : Byte) (s : State) : (openSession a s).kaEnabled = s.kaEnabled := rfl
@[simp] theorem openSession_kaObserver (a : Byte) (s : State) : (openSession a s).kaObserver = s.kaObserver := rfl
@[simp] theorem openSession_kaInterval (a : Byte) (s : State) : (openSession a s).kaInterval = s.kaInterval := rfl
@[simp] theorem openSession_kaTimer (a : Byte) (s : State) : (openSession a s).kaTimer = s.kaTimer := rfl
@[simp] theorem openSession_kaOutstanding (a : Byte) (s : State) : (openSession a s).kaOutstanding = s.kaOutstanding := rfl
@[simp] theorem openSession_fault (a : Byte) (s : State) : (openSession a s).fault = s.fault := rfl
@[simp] theorem openSession_out (a : Byte) (s : State) : (openSession a s).out = s.out := rfl
@[simp] theorem openSession_ret (a : Byte) (s : State) : (openSession a s).ret = s.ret := rfl
@[simp] theorem openSession_inputs (a : Byte) (s : State) : (openSession a s).inputs = s.inputs := rfl

/-! KA_DONE writes `kaOutstanding`, `kaTimer`, `out` (R140). -/

/-- KA_DONE, whole: every field at once, the observer and the enable as conditionals. -/
theorem kaDone_eq (o : CmdOutcome) (s : State) :
    kaDone o s =
      { s with
        kaOutstanding := false
        out := if s.kaObserver then s.out ++ [.kaResult o] else s.out
        kaTimer := if s.kaEnabled then some s.kaInterval else s.kaTimer } := by
  unfold kaDone rearm report
  cases ho : s.kaObserver <;> cases he : s.kaEnabled <;> rfl

@[simp] theorem kaDone_kaOutstanding (o : CmdOutcome) (s : State) :
    (kaDone o s).kaOutstanding = false := by rw [kaDone_eq]
@[simp] theorem kaDone_kaTimer (o : CmdOutcome) (s : State) :
    (kaDone o s).kaTimer = if s.kaEnabled then some s.kaInterval else s.kaTimer := by rw [kaDone_eq]
@[simp] theorem kaDone_out (o : CmdOutcome) (s : State) :
    (kaDone o s).out = if s.kaObserver then s.out ++ [.kaResult o] else s.out := by rw [kaDone_eq]
@[simp] theorem kaDone_cfg (o : CmdOutcome) (s : State) : (kaDone o s).cfg = s.cfg := by rw [kaDone_eq]
@[simp] theorem kaDone_linkUp (o : CmdOutcome) (s : State) : (kaDone o s).linkUp = s.linkUp := by rw [kaDone_eq]
@[simp] theorem kaDone_devAddr (o : CmdOutcome) (s : State) : (kaDone o s).devAddr = s.devAddr := by rw [kaDone_eq]
@[simp] theorem kaDone_rxBuf (o : CmdOutcome) (s : State) : (kaDone o s).rxBuf = s.rxBuf := by rw [kaDone_eq]
@[simp] theorem kaDone_queue (o : CmdOutcome) (s : State) : (kaDone o s).queue = s.queue := by rw [kaDone_eq]
@[simp] theorem kaDone_kaEnabled (o : CmdOutcome) (s : State) : (kaDone o s).kaEnabled = s.kaEnabled := by rw [kaDone_eq]
@[simp] theorem kaDone_kaObserver (o : CmdOutcome) (s : State) : (kaDone o s).kaObserver = s.kaObserver := by rw [kaDone_eq]
@[simp] theorem kaDone_kaInterval (o : CmdOutcome) (s : State) : (kaDone o s).kaInterval = s.kaInterval := by rw [kaDone_eq]
@[simp] theorem kaDone_fault (o : CmdOutcome) (s : State) : (kaDone o s).fault = s.fault := by rw [kaDone_eq]
@[simp] theorem kaDone_ret (o : CmdOutcome) (s : State) : (kaDone o s).ret = s.ret := by rw [kaDone_eq]
@[simp] theorem kaDone_inputs (o : CmdOutcome) (s : State) : (kaDone o s).inputs = s.inputs := by rw [kaDone_eq]

/-! DELIVER writes what KA_DONE writes (R118). -/

@[simp] theorem deliver_cfg (g : Origin) (o : CmdOutcome) (s : State) : (deliver g o s).cfg = s.cfg := by
  cases g <;> simp [deliver]
@[simp] theorem deliver_linkUp (g : Origin) (o : CmdOutcome) (s : State) : (deliver g o s).linkUp = s.linkUp := by
  cases g <;> simp [deliver]
@[simp] theorem deliver_devAddr (g : Origin) (o : CmdOutcome) (s : State) : (deliver g o s).devAddr = s.devAddr := by
  cases g <;> simp [deliver]
@[simp] theorem deliver_rxBuf (g : Origin) (o : CmdOutcome) (s : State) : (deliver g o s).rxBuf = s.rxBuf := by
  cases g <;> simp [deliver]
@[simp] theorem deliver_queue (g : Origin) (o : CmdOutcome) (s : State) : (deliver g o s).queue = s.queue := by
  cases g <;> simp [deliver]
@[simp] theorem deliver_kaEnabled (g : Origin) (o : CmdOutcome) (s : State) : (deliver g o s).kaEnabled = s.kaEnabled := by
  cases g <;> simp [deliver]
@[simp] theorem deliver_kaObserver (g : Origin) (o : CmdOutcome) (s : State) : (deliver g o s).kaObserver = s.kaObserver := by
  cases g <;> simp [deliver]
@[simp] theorem deliver_kaInterval (g : Origin) (o : CmdOutcome) (s : State) : (deliver g o s).kaInterval = s.kaInterval := by
  cases g <;> simp [deliver]
@[simp] theorem deliver_fault (g : Origin) (o : CmdOutcome) (s : State) : (deliver g o s).fault = s.fault := by
  cases g <;> simp [deliver]
@[simp] theorem deliver_ret (g : Origin) (o : CmdOutcome) (s : State) : (deliver g o s).ret = s.ret := by
  cases g <;> simp [deliver]
@[simp] theorem deliver_inputs (g : Origin) (o : CmdOutcome) (s : State) : (deliver g o s).inputs = s.inputs := by
  cases g <;> simp [deliver]

/-! TRANSMIT writes `queue` and `out` (R119). -/

@[simp] theorem transmit_cfg (s : State) : (transmit s).cfg = s.cfg := by
  unfold transmit; split; · rfl
  split <;> rfl
@[simp] theorem transmit_linkUp (s : State) : (transmit s).linkUp = s.linkUp := by
  unfold transmit; split; · rfl
  split <;> rfl
@[simp] theorem transmit_devAddr (s : State) : (transmit s).devAddr = s.devAddr := by
  unfold transmit; split; · rfl
  split <;> rfl
@[simp] theorem transmit_rxBuf (s : State) : (transmit s).rxBuf = s.rxBuf := by
  unfold transmit; split; · rfl
  split <;> rfl
@[simp] theorem transmit_kaEnabled (s : State) : (transmit s).kaEnabled = s.kaEnabled := by
  unfold transmit; split; · rfl
  split <;> rfl
@[simp] theorem transmit_kaObserver (s : State) : (transmit s).kaObserver = s.kaObserver := by
  unfold transmit; split; · rfl
  split <;> rfl
@[simp] theorem transmit_kaInterval (s : State) : (transmit s).kaInterval = s.kaInterval := by
  unfold transmit; split; · rfl
  split <;> rfl
@[simp] theorem transmit_kaTimer (s : State) : (transmit s).kaTimer = s.kaTimer := by
  unfold transmit; split; · rfl
  split <;> rfl
@[simp] theorem transmit_kaOutstanding (s : State) : (transmit s).kaOutstanding = s.kaOutstanding := by
  unfold transmit; split; · rfl
  split <;> rfl
@[simp] theorem transmit_fault (s : State) : (transmit s).fault = s.fault := by
  unfold transmit; split; · rfl
  split <;> rfl
@[simp] theorem transmit_ret (s : State) : (transmit s).ret = s.ret := by
  unfold transmit; split; · rfl
  split <;> rfl
@[simp] theorem transmit_inputs (s : State) : (transmit s).inputs = s.inputs := by
  unfold transmit; split; · rfl
  split <;> rfl

/-! ON_MESSAGE writes `queue` and what DELIVER writes (R121). -/

@[simp] theorem onMessage_cfg (m : Message) (s : State) : (onMessage m s).cfg = s.cfg := by
  unfold onMessage; split <;> simp
@[simp] theorem onMessage_linkUp (m : Message) (s : State) : (onMessage m s).linkUp = s.linkUp := by
  unfold onMessage; split <;> simp
@[simp] theorem onMessage_devAddr (m : Message) (s : State) : (onMessage m s).devAddr = s.devAddr := by
  unfold onMessage; split <;> simp
@[simp] theorem onMessage_rxBuf (m : Message) (s : State) : (onMessage m s).rxBuf = s.rxBuf := by
  unfold onMessage; split <;> simp
@[simp] theorem onMessage_kaEnabled (m : Message) (s : State) : (onMessage m s).kaEnabled = s.kaEnabled := by
  unfold onMessage; split <;> simp
@[simp] theorem onMessage_kaObserver (m : Message) (s : State) : (onMessage m s).kaObserver = s.kaObserver := by
  unfold onMessage; split <;> simp
@[simp] theorem onMessage_kaInterval (m : Message) (s : State) : (onMessage m s).kaInterval = s.kaInterval := by
  unfold onMessage; split <;> simp
@[simp] theorem onMessage_fault (m : Message) (s : State) : (onMessage m s).fault = s.fault := by
  unfold onMessage; split <;> simp
@[simp] theorem onMessage_ret (m : Message) (s : State) : (onMessage m s).ret = s.ret := by
  unfold onMessage; split <;> simp
@[simp] theorem onMessage_inputs (m : Message) (s : State) : (onMessage m s).inputs = s.inputs := by
  unfold onMessage; split <;> simp

/-! A list of deliveries writes what DELIVER writes (R126). -/

@[simp] theorem deliverAll_cfg (o : CmdOutcome) (q : List Command) (s : State) :
    (deliverAll o q s).cfg = s.cfg := by
  induction q generalizing s with
  | nil => rfl
  | cons c q ih => simp [deliverAll, ih]
@[simp] theorem deliverAll_linkUp (o : CmdOutcome) (q : List Command) (s : State) :
    (deliverAll o q s).linkUp = s.linkUp := by
  induction q generalizing s with
  | nil => rfl
  | cons c q ih => simp [deliverAll, ih]
@[simp] theorem deliverAll_devAddr (o : CmdOutcome) (q : List Command) (s : State) :
    (deliverAll o q s).devAddr = s.devAddr := by
  induction q generalizing s with
  | nil => rfl
  | cons c q ih => simp [deliverAll, ih]
@[simp] theorem deliverAll_rxBuf (o : CmdOutcome) (q : List Command) (s : State) :
    (deliverAll o q s).rxBuf = s.rxBuf := by
  induction q generalizing s with
  | nil => rfl
  | cons c q ih => simp [deliverAll, ih]
@[simp] theorem deliverAll_queue (o : CmdOutcome) (q : List Command) (s : State) :
    (deliverAll o q s).queue = s.queue := by
  induction q generalizing s with
  | nil => rfl
  | cons c q ih => simp [deliverAll, ih]
@[simp] theorem deliverAll_kaEnabled (o : CmdOutcome) (q : List Command) (s : State) :
    (deliverAll o q s).kaEnabled = s.kaEnabled := by
  induction q generalizing s with
  | nil => rfl
  | cons c q ih => simp [deliverAll, ih]
@[simp] theorem deliverAll_kaObserver (o : CmdOutcome) (q : List Command) (s : State) :
    (deliverAll o q s).kaObserver = s.kaObserver := by
  induction q generalizing s with
  | nil => rfl
  | cons c q ih => simp [deliverAll, ih]
@[simp] theorem deliverAll_kaInterval (o : CmdOutcome) (q : List Command) (s : State) :
    (deliverAll o q s).kaInterval = s.kaInterval := by
  induction q generalizing s with
  | nil => rfl
  | cons c q ih => simp [deliverAll, ih]
@[simp] theorem deliverAll_fault (o : CmdOutcome) (q : List Command) (s : State) :
    (deliverAll o q s).fault = s.fault := by
  induction q generalizing s with
  | nil => rfl
  | cons c q ih => simp [deliverAll, ih]
@[simp] theorem deliverAll_ret (o : CmdOutcome) (q : List Command) (s : State) :
    (deliverAll o q s).ret = s.ret := by
  induction q generalizing s with
  | nil => rfl
  | cons c q ih => simp [deliverAll, ih]
@[simp] theorem deliverAll_inputs (o : CmdOutcome) (q : List Command) (s : State) :
    (deliverAll o q s).inputs = s.inputs := by
  induction q generalizing s with
  | nil => rfl
  | cons c q ih => simp [deliverAll, ih]

/-! The reassembly loop writes `rxBuf` and what ON_MESSAGE writes (R106). -/

@[simp] theorem reassemble_cfg (n : Nat) (s : State) : (reassemble n s).cfg = s.cfg := by
  induction n generalizing s with
  | zero => rfl
  | succ n ih => unfold reassemble; split <;> simp [ih]
@[simp] theorem reassemble_linkUp (n : Nat) (s : State) : (reassemble n s).linkUp = s.linkUp := by
  induction n generalizing s with
  | zero => rfl
  | succ n ih => unfold reassemble; split <;> simp [ih]
@[simp] theorem reassemble_devAddr (n : Nat) (s : State) : (reassemble n s).devAddr = s.devAddr := by
  induction n generalizing s with
  | zero => rfl
  | succ n ih => unfold reassemble; split <;> simp [ih]
@[simp] theorem reassemble_kaEnabled (n : Nat) (s : State) : (reassemble n s).kaEnabled = s.kaEnabled := by
  induction n generalizing s with
  | zero => rfl
  | succ n ih => unfold reassemble; split <;> simp [ih]
@[simp] theorem reassemble_kaObserver (n : Nat) (s : State) : (reassemble n s).kaObserver = s.kaObserver := by
  induction n generalizing s with
  | zero => rfl
  | succ n ih => unfold reassemble; split <;> simp [ih]
@[simp] theorem reassemble_kaInterval (n : Nat) (s : State) : (reassemble n s).kaInterval = s.kaInterval := by
  induction n generalizing s with
  | zero => rfl
  | succ n ih => unfold reassemble; split <;> simp [ih]
@[simp] theorem reassemble_fault (n : Nat) (s : State) : (reassemble n s).fault = s.fault := by
  induction n generalizing s with
  | zero => rfl
  | succ n ih => unfold reassemble; split <;> simp [ih]
@[simp] theorem reassemble_ret (n : Nat) (s : State) : (reassemble n s).ret = s.ret := by
  induction n generalizing s with
  | zero => rfl
  | succ n ih => unfold reassemble; split <;> simp [ih]
@[simp] theorem reassemble_inputs (n : Nat) (s : State) : (reassemble n s).inputs = s.inputs := by
  induction n generalizing s with
  | zero => rfl
  | succ n ih => unfold reassemble; split <;> simp [ih]

end Sys2Proof.Machine
end

