-- ==== Sys2Proof/Laws/Ops.lean ====
section
/-! SUPPORT. One lemma per shared operation that says everything it can do, so that no later proof
unfolds it. -/

namespace Sys2Proof.Machine

theorem CmdSt.queued_of_ne {x : CmdSt} (h : x ≠ .inFlight) : x = .queued := by
  cases x <;> simp_all

theorem busy_eq_true (s : State) : s.busy = true ↔ ∃ c ∈ s.queue, c.st = .inFlight := by
  simp [State.busy, Command.inFlight]

theorem busy_eq_false (s : State) : s.busy = false ↔ ∀ c ∈ s.queue, c.st = .queued := by
  rw [← Bool.not_eq_true, busy_eq_true]
  push Not
  exact ⟨fun h c hc => CmdSt.queued_of_ne (h c hc), fun h c hc => by simp [h c hc]⟩

/-- TRANSMIT, whole: with the gate open every Command is Queued, so the oldest is the head (R119). -/
theorem transmit_eq (s : State) :
    transmit s =
      if s.busy then s
      else
        match s.queue with
        | [] => s
        | c :: rest =>
          { s with queue := { c with st := .inFlight } :: rest, out := s.out ++ [.tx c.frame] } := by
  unfold transmit
  cases hb : s.busy with
  | true => rfl
  | false =>
    rw [busy_eq_false] at hb
    cases hq : s.queue with
    | nil => simp [sendOldest]
    | cons c rest =>
      have hc : c.st = .queued := hb c (by simp [hq])
      simp [sendOldest, hc, emit]

/-- The oldest Command in flight, and the queue without it (R121). -/
theorem takeInFlight_eq_some (q : List Command) (c : Command) (q' : List Command) :
    takeInFlight q = some (c, q') ↔
      ∃ before after, q = before ++ c :: after ∧ q' = before ++ after ∧
        (∀ d ∈ before, d.st ≠ .inFlight) ∧ c.st = .inFlight := by
  induction q generalizing q' with
  | nil => simp [takeInFlight]
  | cons d rest ih =>
    unfold takeInFlight
    by_cases hd : d.st = .inFlight
    · rw [if_pos hd]
      constructor
      · intro h; simp at h; obtain ⟨rfl, rfl⟩ := h
        exact ⟨[], rest, rfl, rfl, by simp, hd⟩
      · rintro ⟨before, after, h1, h2, h3, h4⟩
        cases before with
        | nil => simp at h1; simp [h1, h2]
        | cons b before => simp at h1; exact absurd hd (by rw [h1.1]; exact h3 b (by simp))
    · rw [if_neg hd, Option.map_eq_some_iff]
      constructor
      · rintro ⟨⟨c', r⟩, h, e⟩
        simp at e; obtain ⟨rfl, rfl⟩ := e
        obtain ⟨before, after, h1, h2, h3, h4⟩ := (ih r).1 h
        refine ⟨d :: before, after, by simp [h1], by simp [h2], ?_, h4⟩
        intro x hx; rcases List.mem_cons.1 hx with rfl | hx
        · exact hd
        · exact h3 x hx
      · rintro ⟨before, after, h1, h2, h3, h4⟩
        cases before with
        | nil => simp at h1; exact absurd h4 (by rw [← h1.1]; exact hd)
        | cons b before =>
          simp at h1; obtain ⟨rfl, rfl⟩ := h1
          exact ⟨(c, before ++ after), (ih _).2 ⟨before, after, rfl, rfl,
            fun x hx => h3 x (by simp [hx]), h4⟩, by simp [h2]⟩

theorem takeInFlight_eq_none (q : List Command) :
    takeInFlight q = none ↔ ∀ d ∈ q, d.st ≠ .inFlight := by
  induction q with
  | nil => simp [takeInFlight]
  | cons d rest ih => unfold takeInFlight; by_cases hd : d.st = .inFlight <;> simp [hd, ih]

/-- ON_MESSAGE, whole (R121, R122). -/
theorem onMessage_cases (m : Message) (s : State) :
    (∃ before c after, s.queue = before ++ c :: after ∧ (∀ d ∈ before, d.st ≠ .inFlight) ∧
      c.st = .inFlight ∧
      onMessage m s =
        transmit (deliver c.origin (.ok m.value) { s with queue := before ++ after })) ∨
    ((∀ d ∈ s.queue, d.st ≠ .inFlight) ∧ onMessage m s = emit (.log (.unsolicited m)) s) := by
  unfold onMessage
  cases h : takeInFlight s.queue with
  | none => right; exact ⟨(takeInFlight_eq_none _).1 h, rfl⟩
  | some r =>
    obtain ⟨c, q⟩ := r
    obtain ⟨before, after, h1, rfl, h3, h4⟩ := (takeInFlight_eq_some _ _ _).1 h
    left; exact ⟨before, c, after, h1, h3, h4, rfl⟩

theorem queueFull_eq_true (s : State) :
    s.queueFull = true ↔ s.cfg.queueCap = some s.queue.length := by
  unfold State.queueFull; cases h : s.cfg.queueCap <;> simp [eq_comm]

/-- SUBMIT, whole (R117). -/
theorem submit_cases (frame : List Byte) (kind : CmdKind) (reg value : Half) (origin : Origin)
    (s : State) :
    (s.linkUp = false ∧ submit frame kind reg value origin s =
      .next (deliver origin (.err .transportUnavailable) s)) ∨
    (s.linkUp = true ∧ s.cfg.queueCap = some s.queue.length ∧
      submit frame kind reg value origin s = .refused .queueFull) ∨
    (s.linkUp = true ∧ s.cfg.queueCap ≠ some s.queue.length ∧
      submit frame kind reg value origin s = .next (transmit { s with queue := s.queue ++
        [{ kind := kind, reg := reg, value := value, frame := frame, origin := origin,
           st := .queued }] })) := by
  unfold submit
  cases hl : s.linkUp with
  | false => left; simp
  | true =>
    by_cases hf : s.queueFull = true
    · right; left; exact ⟨rfl, (queueFull_eq_true s).1 hf, by simp [hf]⟩
    · right; right; exact ⟨rfl, fun h => hf ((queueFull_eq_true s).2 h), by simp [hf]⟩

theorem rxOverflows_eq_true (s : State) (chunk : List Byte) :
    s.rxOverflows chunk = true ↔
      ∃ cap, s.cfg.rxBufCap = some cap ∧ cap < s.rxBuf.length + chunk.length := by
  unfold State.rxOverflows; cases h : s.cfg.rxBufCap <;> simp

/-- ON_MESSAGE neither reads nor writes the buffer (R106). -/
theorem onMessage_withRxBuf (m : Message) (s : State) (b : List Byte) :
    onMessage m { s with rxBuf := b } = { onMessage m s with rxBuf := b } := by
  have ht : ∀ u : State, transmit { u with rxBuf := b } = { transmit u with rxBuf := b } := by
    intro u
    rw [transmit_eq, transmit_eq]
    have hb : ({ u with rxBuf := b } : State).busy = u.busy := rfl
    rw [hb]
    cases u.busy with
    | true => rfl
    | false => cases hq : u.queue <;> simp [hq]
  have hd : ∀ (g : Origin) (o : CmdOutcome) (u : State),
      deliver g o { u with rxBuf := b } = { deliver g o u with rxBuf := b } := by
    intro g o u; cases g
    · rfl
    · simp only [deliver, kaDone_eq]
  unfold onMessage
  cases takeInFlight s.queue with
  | none => rfl
  | some r => simp only; rw [← ht, ← hd]

/-- Once there is an iteration for every byte, more make no difference (R107). -/
theorem reassemble_fuel (n k : Nat) (s : State) (hn : s.rxBuf.length < n)
    (hk : s.rxBuf.length < k) : reassemble n s = reassemble k s := by
  induction n generalizing k s with
  | zero => omega
  | succ n ih =>
    cases k with
    | zero => omega
    | succ k =>
      unfold reassemble
      cases h : decodeFrame s.rxBuf with
      | needMoreBytes => rfl
      | crcError len =>
        have := decodeFrame_decided (Or.inl h)
        exact ih _ _ (by simp; omega) (by simp; omega)
      | message m len =>
        have := decodeFrame_decided (Or.inr ⟨m, h⟩)
        exact ih _ _ (by simp; omega) (by simp; omega)

/-- The loop of RX with enough iterations (R106, R107). -/
def drain (s : State) : State := reassemble (s.rxBuf.length + 1) s

theorem drain_needMoreBytes {s : State} (h : decodeFrame s.rxBuf = .needMoreBytes) :
    drain s = s := by
  unfold drain reassemble; simp [h]

theorem drain_crcError {s : State} {len : Nat} (h : decodeFrame s.rxBuf = .crcError len) :
    drain s = drain { s with rxBuf := s.rxBuf.drop len,
                             out := s.out ++ [.log (.crcError (s.rxBuf.take len))] } := by
  have := decodeFrame_decided (Or.inl h)
  conv => lhs; unfold drain reassemble
  simp only [h]
  exact reassemble_fuel _ _ _ (by simp; omega) (by simp)

theorem drain_message {s : State} {m : Message} {len : Nat}
    (h : decodeFrame s.rxBuf = .message m len) :
    drain s = drain (onMessage m { s with rxBuf := s.rxBuf.drop len }) := by
  have := decodeFrame_decided (Or.inr ⟨m, h⟩)
  conv => lhs; unfold drain reassemble
  simp only [h]
  exact reassemble_fuel _ _ _ (by simp; omega) (by simp)

/-- RX, whole (R106, R108). -/
theorem receive_cases (chunk : List Byte) (s : State) :
    (s.linkUp = false ∧ receive chunk s = s) ∨
    (s.linkUp = true ∧
      (∃ cap, s.cfg.rxBufCap = some cap ∧ cap < s.rxBuf.length + chunk.length) ∧
      receive chunk s = { s with fault := some .rxOverflow }) ∨
    (s.linkUp = true ∧
      (∀ cap, s.cfg.rxBufCap = some cap → s.rxBuf.length + chunk.length ≤ cap) ∧
      receive chunk s = drain { s with rxBuf := s.rxBuf ++ chunk }) := by
  unfold receive
  cases hl : s.linkUp with
  | false => left; simp
  | true =>
    by_cases hf : s.rxOverflows chunk = true
    · right; left; exact ⟨rfl, (rxOverflows_eq_true _ _).1 hf, by simp [hf]⟩
    · right; right
      refine ⟨rfl, ?_, by simp [hf, drain]⟩
      intro cap hc
      by_contra h
      exact hf ((rxOverflows_eq_true _ _).2 ⟨cap, hc, by omega⟩)

/-- What a property needs to hold after the loop of RX: it survives a logged drop and a delivered
Message (R106). -/
theorem drain_induction {P : State → Prop}
    (hbad : ∀ (s : State) (len : Nat), P s → decodeFrame s.rxBuf = .crcError len →
      P { s with rxBuf := s.rxBuf.drop len,
                 out := s.out ++ [.log (.crcError (s.rxBuf.take len))] })
    (hgood : ∀ (s : State) (m : Message) (len : Nat), P s → decodeFrame s.rxBuf = .message m len →
      P (onMessage m { s with rxBuf := s.rxBuf.drop len }))
    (s : State) (h : P s) : P (drain s) := by
  unfold drain
  generalize s.rxBuf.length + 1 = n
  induction n generalizing s with
  | zero => exact h
  | succ n ih =>
    unfold reassemble
    split
    · exact h
    · rename_i len hd; exact ih _ (hbad s len h hd)
    · rename_i m len hd; exact ih _ (hgood s m len h hd)

/-- RX in a session with room for the chunk is its loop. -/
theorem receive_of_room {chunk : List Byte} {s : State} (hl : s.linkUp = true)
    (hr : ∀ cap, s.cfg.rxBufCap = some cap → s.rxBuf.length + chunk.length ≤ cap) :
    receive chunk s = drain { s with rxBuf := s.rxBuf ++ chunk } := by
  rcases receive_cases chunk s with ⟨h, -⟩ | ⟨-, ⟨cap, h1, h2⟩, -⟩ | ⟨-, -, h⟩
  · rw [hl] at h; cases h
  · have := hr cap h1; omega
  · exact h

/-- What neither the buffer nor the output nor ON_MESSAGE changes, the loop of RX does not change. -/
theorem drain_keeps {α : Type} (g : State → α)
    (hbuf : ∀ s b o, g { s with rxBuf := b, out := o } = g s)
    (hmsg : ∀ m s, g (onMessage m s) = g s) (s : State) : g (drain s) = g s := by
  refine drain_induction (P := fun t => g t = g s) (fun t len h _ => ?_) (fun t m len h _ => ?_) s rfl
  · rw [hbuf, h]
  · rw [hmsg, hbuf t _ t.out, h]

@[simp] theorem drain_cfg (s : State) : (drain s).cfg = s.cfg :=
  drain_keeps State.cfg (fun _ _ _ => rfl) (by simp) s
@[simp] theorem drain_linkUp (s : State) : (drain s).linkUp = s.linkUp :=
  drain_keeps State.linkUp (fun _ _ _ => rfl) (by simp) s
@[simp] theorem drain_devAddr (s : State) : (drain s).devAddr = s.devAddr :=
  drain_keeps State.devAddr (fun _ _ _ => rfl) (by simp) s
@[simp] theorem drain_kaEnabled (s : State) : (drain s).kaEnabled = s.kaEnabled :=
  drain_keeps State.kaEnabled (fun _ _ _ => rfl) (by simp) s
@[simp] theorem drain_kaObserver (s : State) : (drain s).kaObserver = s.kaObserver :=
  drain_keeps State.kaObserver (fun _ _ _ => rfl) (by simp) s
@[simp] theorem drain_kaInterval (s : State) : (drain s).kaInterval = s.kaInterval :=
  drain_keeps State.kaInterval (fun _ _ _ => rfl) (by simp) s
@[simp] theorem drain_fault (s : State) : (drain s).fault = s.fault :=
  drain_keeps State.fault (fun _ _ _ => rfl) (by simp) s
@[simp] theorem drain_ret (s : State) : (drain s).ret = s.ret :=
  drain_keeps State.ret (fun _ _ _ => rfl) (by simp) s
@[simp] theorem drain_inputs (s : State) : (drain s).inputs = s.inputs :=
  drain_keeps State.inputs (fun _ _ _ => rfl) (by simp) s

/-- What DELIVER emits for a Command (R118, spec/44_keepalive.md R140). -/
def deliveredEvents (observer : Bool) (o : CmdOutcome) (c : Command) : List OutEvent :=
  match c.origin with
  | .caller h => [.resolve h o]
  | .keepalive => if observer then [.kaResult o] else []

/-- A list of deliveries, whole (R126). -/
theorem deliverAll_eq (o : CmdOutcome) (q : List Command) (s : State) :
    deliverAll o q s =
      { s with
        kaOutstanding := s.kaOutstanding && !(q.any Command.isKeepalive)
        kaTimer := if q.any Command.isKeepalive && s.kaEnabled then some s.kaInterval else s.kaTimer
        out := s.out ++ q.flatMap (deliveredEvents s.kaObserver o) } := by
  induction q generalizing s with
  | nil => simp [deliverAll]
  | cons c q ih =>
    simp only [deliverAll, ih]
    cases hc : c.origin with
    | caller h => simp [deliver, emit, Command.isKeepalive, deliveredEvents, hc]
    | keepalive =>
      simp only [deliver, kaDone_eq]
      cases s.kaObserver <;> cases s.kaEnabled <;> simp [Command.isKeepalive, deliveredEvents, hc]

end Sys2Proof.Machine
end

