-- ==== Sys2Proof/Laws/PerInstr.lean ====
section
/-! SUPPORT. A statement about every instruction as syntax, made constructor by constructor: it has bits
exactly when it has a port (internal operations have no code, spec/30_encoding.md R71), and an outbound
frame has eight bytes (R61, R62, R69). -/

namespace Sys2Proof.Laws.EncodedOnItsPort

open Sys2Proof Sys2Proof.Machine

def Statement (i : Instr) : Prop :=
  (encode i = [] ↔ i.port = none) ∧ (i.port = some .outbound → (encode i).length = 8)

theorem of_frame (addr func : Byte) (reg value : Half) :
    buildFrame addr func reg value ≠ [] ∧ (buildFrame addr func reg value).length = 8 := by
  simp [buildFrame_eq]

theorem rdreq : ∀ a b, Statement (.rdreq a b) := by
  intros; simpa [Statement, encode, Instr.port, encRdFrame] using of_frame _ 0x03 _ 0x0001

theorem wrreq : ∀ a b c, Statement (.wrreq a b c) := by
  intros; simpa [Statement, encode, Instr.port, encWrFrame] using of_frame _ 0x06 _ _

theorem probe : ∀ a b c d, Statement (.probe a b c d) := by
  intros; simpa [Statement, encode, Instr.port] using of_frame _ _ _ _

theorem rdrsp : ∀ a b c, Statement (.rdrsp a b c) := by
  intros; simp [Statement, encode, Instr.port, rdrspBytes]

theorem wrrsp : ∀ a b c d, Statement (.wrrsp a b c d) := by
  intros; simp [Statement, encode, Instr.port, wrrspBytes]

theorem reset : Statement .reset := by
  simp [Statement, encode, Instr.port]

theorem connect : ∀ a, Statement (.connect a) := by
  intros; simp [Statement, encode, Instr.port]

theorem disconnect : Statement .disconnect := by
  simp [Statement, encode, Instr.port]

theorem transportFail : Statement .transportFail := by
  simp [Statement, encode, Instr.port]

theorem read : ∀ a b, Statement (.read a b) := by
  intros; simp [Statement, encode, Instr.port]

theorem write : ∀ a b c, Statement (.write a b c) := by
  intros; simp [Statement, encode, Instr.port]

theorem kaStart : ∀ a b, Statement (.kaStart a b) := by
  intros; simp [Statement, encode, Instr.port]

theorem kaStop : Statement .kaStop := by
  simp [Statement, encode, Instr.port]

theorem rx : ∀ a, Statement (.rx a) := by
  intros; simp [Statement, encode, Instr.port]

theorem tick : Statement .tick := by
  simp [Statement, encode, Instr.port]

theorem crc : ∀ a, Statement (.crc a) := by
  intros; simp [Statement, encode, Instr.port]

theorem encRd : ∀ a b, Statement (.encRd a b) := by
  intros; simp [Statement, encode, Instr.port]

theorem encWr : ∀ a b c, Statement (.encWr a b c) := by
  intros; simp [Statement, encode, Instr.port]

theorem encProbe : ∀ a, Statement (.encProbe a) := by
  intros; simp [Statement, encode, Instr.port]

theorem decode : ∀ a, Statement (.decode a) := by
  intros; simp [Statement, encode, Instr.port]

theorem submit : ∀ a b c d e, Statement (.submit a b c d e) := by
  intros; simp [Statement, encode, Instr.port]

theorem deliver : ∀ a b, Statement (.deliver a b) := by
  intros; simp [Statement, encode, Instr.port]

theorem transmit : Statement .transmit := by
  simp [Statement, encode, Instr.port]

theorem onMessage : ∀ a, Statement (.onMessage a) := by
  intros; simp [Statement, encode, Instr.port]

theorem kaFire : Statement .kaFire := by
  simp [Statement, encode, Instr.port]

theorem kaDone : ∀ a, Statement (.kaDone a) := by
  intros; simp [Statement, encode, Instr.port]

end Sys2Proof.Laws.EncodedOnItsPort
end

