-- ==== Sys2Proof/Tests/Slice0.lean ====
section
/-! SUPPORT. The model's own tests: the well-formedness smoke tests, words decoded as the spec's encodings
write them, one step per operation with the results of spec/95_test_vectors.md, and for every obligation
with hypotheses a state and operands that meet them together. -/

namespace Sys2Proof.Tests

open Sys2Proof Sys2Proof.Machine

-- One theorem at a time: the kernel evaluations would otherwise each hold a thread of their own.
set_option Elab.async false

/-! ## Helpers -/

abbrev Answer := Host.Outcome State Fault Refusal

/-- The answer is a next state with the property. -/
def nextHas (o : Answer) (p : State → Bool) : Bool :=
  match o with
  | .next t => p t
  | .fault _ | .refused _ => false

/-- The answer is this refusal. -/
def refusedWith (o : Answer) (r : Refusal) : Bool :=
  match o with
  | .refused q => decide (q = r)
  | .next _ | .fault _ => false

theorem next_of_has {o : Answer} {p : State → Bool} (h : nextHas o p = true) :
    ∃ t, o = .next t ∧ p t = true := by
  cases o <;> simp_all [nextHas]

theorem next_of_any {o : Answer} (h : nextHas o (fun _ => true) = true) : ∃ t, o = .next t := by
  obtain ⟨t, h, -⟩ := next_of_has h
  exact ⟨t, h⟩

/-- State Q3 of spec/95_test_vectors.md: a session, nothing pending. -/
def session : State := { State.reset with linkUp := true }

/-- The source's read request, read response, and write echo (spec/95_test_vectors.md E1, D-9, D-13). -/
def request : List Byte := [0x01, 0x03, 0xFD, 0x06, 0x00, 0x01, 0x55, 0xA7]
def response : List Byte := [0x01, 0x03, 0x02, 0x00, 0x18, 0xB8, 0x4E]
def echo : List Byte := [0x01, 0x06, 0xFA, 0x00, 0xC4, 0x00, 0xEB, 0xD2]
/-- D-15: its last bit flipped. -/
def badEcho : List Byte := [0x01, 0x06, 0xFA, 0x00, 0xC4, 0x00, 0xEB, 0xD3]
/-- D-7: the shortest frame. -/
def shortest : List Byte := [0x01, 0x03, 0x00, 0x20, 0xF0]
/-- D-19: a frame with an unknown function code. -/
def unknown : List Byte := [0x01, 0x83, 0x02, 0xC0, 0xF1]
/-- E8: the default probe. -/
def probeFrame : List Byte := [0x01, 0x03, 0xFD, 0x00, 0x00, 0x01, 0xB5, 0xA6]

def readCmd (h : Handle) (st : CmdSt) : Command :=
  { kind := .read, reg := 0xFD06, value := 0x0001, frame := request, origin := .caller h, st := st }
def writeCmd (h : Handle) (st : CmdSt) : Command :=
  { kind := .write, reg := 0xFA00, value := 0xC400, frame := echo, origin := .caller h, st := st }
def probeCmd (st : CmdSt) : Command :=
  { kind := .probe, reg := 0xFD00, value := 0x0001, frame := probeFrame, origin := .keepalive, st := st }

def oneInFlight : State := { session with queue := [readCmd 1 .inFlight] }
def twoPending : State := { session with queue := [readCmd 1 .inFlight, writeCmd 2 .queued] }
/-- A3 of spec/95_test_vectors.md: a probe in flight. -/
def probing : State :=
  { session with kaEnabled := true, kaObserver := true, kaInterval := 3, kaOutstanding := true,
                 queue := [probeCmd .inFlight] }
def capped (rx q : Option Nat) : Config := { Config.default with rxBufCap := rx, queueCap := q }

/-- One operation word presented to a state. -/
def word (bs : List Byte) (s : State) : State := { s with inputs := [.bits .operation bs] }
/-- Bytes arriving on the line. -/
def line (bs : List Byte) (s : State) : State := { s with inputs := [.bits .inbound bs] }

theorem room_unbounded {s : State} (n : Nat) (h : s.cfg.rxBufCap = none) : s.roomFor n := by
  intro cap hc; rw [h] at hc; cases hc

theorem room_within {s : State} {n cap : Nat} (h : s.cfg.rxBufCap = some cap)
    (hn : s.rxBuf.length + n ≤ cap) : s.roomFor n := by
  intro c hc; rw [h] at hc; cases hc; exact hn

/-! ## Well-formedness: each check refuses an ill-formed term -/

theorem test_wf_rdrsp_length_byte :
    (Instr.rdrsp 0x01 (List.replicate 255 0) 0).wf Config.default = true ∧
    (Instr.rdrsp 0x01 (List.replicate 256 0) 0).wf Config.default = false := by
  decide +kernel

theorem test_wf_handle_width :
    let c := { Config.default with handleW := some 4 }
    (Instr.read 0xFD06 15).wf c = true ∧ (Instr.read 0xFD06 16).wf c = false ∧
    (Instr.write 0xFA00 0 16).wf c = false ∧
    (Instr.deliver (.caller 16) (.ok 0)).wf c = false ∧ (Instr.deliver .keepalive (.ok 0)).wf c = true ∧
    (Instr.submit request .read 0 0 (.caller 16)).wf c = false := by
  decide +kernel

/-- KA_INTERVAL_W: 32 bits by default (R21). -/
theorem test_wf_interval_width :
    (Instr.kaStart 0xFFFFFFFF true).wf Config.default = true ∧
    (Instr.kaStart 0x100000000 true).wf Config.default = false ∧
    (Instr.kaStart 256 true).wf { Config.default with kaIntervalW := 8 } = false ∧
    refusedWith (step (word [0x06, 1, 0, 0, 0, 0] session)) (.input .illFormed) = true := by
  decide +kernel

/-- R68, R69: only the configured probe, and no RDREQ count but 1. -/
theorem test_wf_probe :
    let c := { Config.default with kaFunc := 0x10, kaReg := 0xABCD, kaValue := 0x1234 }
    let s := { session with cfg := c }
    let frame := withCrc [0x01, 0x10, 0xAB, 0xCD, 0x12, 0x34]
    (Instr.probe 0x01 0x10 0xABCD 0x1234).wf c = true ∧
    (Instr.probe 0x01 0x10 0xABCD 0x1234).wf Config.default = false ∧
    (Instr.probe 0x01 0x10 0xABCD 0x1235).wf c = false ∧
    (Instr.probe 0x01 0x10 0xABCE 0x1234).wf c = false ∧
    nextHas (step { s with inputs := [.bits .outbound frame] })
      (fun t => decide (t.ret = some (.frame frame))) = true ∧
    refusedWith (step { session with inputs := [.bits .outbound frame] }) (.input .illFormed) = true ∧
    refusedWith (step { session with
        inputs := [.bits .outbound (withCrc [0x01, 0x03, 0xFD, 0x06, 0x00, 0x02])] })
      (.input .illFormed) = true := by
  decide +kernel

theorem test_wf_submit_frame :
    (Instr.submit request .read 0 0 (.caller 1)).wf Config.default = true ∧
    (Instr.submit response .read 0 0 (.caller 1)).wf Config.default = false := by
  decide +kernel

/-! ## Decoding: words written out from spec/30_encoding.md -/

/-- R61, R62, R69: rows E1, W1 and E8 of the vectors, and R69's layout with function 0x10. -/
theorem test_decode_outbound :
    decode .outbound [0x01, 0x03, 0xFD, 0x06, 0x00, 0x01, 0x55, 0xA7] =
      .instr (.rdreq 0x01 0xFD06) ∧
    decode .outbound [0x01, 0x06, 0xFA, 0x00, 0xC4, 0x00, 0xEB, 0xD2] =
      .instr (.wrreq 0x01 0xFA00 0xC400) ∧
    decode .outbound [0x01, 0x06, 0xFA, 0x00, 0xC4, 0x00, 0xEB, 0xD3] =
      .reject .notAnOutboundFrame ∧
    decode .outbound (withCrc [0x01, 0x10, 0xAB, 0xCD, 0x12, 0x34]) =
      .instr (.probe 0x01 0x10 0xABCD 0x1234) ∧
    decode .outbound probeFrame = .instr (.rdreq 0x01 0xFD00) := by
  decide +kernel

/-- R63, R64: rows D-12, D-23, and R67's request read as a response (a chunk that waits). -/
theorem test_decode_inbound :
    decode .inbound [0x01, 0x03, 0x04, 0xDE, 0xAD, 0xBE, 0xEF, 0x61, 0xD6] =
      .instr (.rdrsp 0x01 [0xDE, 0xAD, 0xBE, 0xEF] 0x61D6) ∧
    decode .inbound [0x11, 0x06, 0x00, 0x01, 0x00, 0x03, 0x9A, 0x9B] =
      .instr (.wrrsp 0x11 0x0001 0x0003 0x9A9B) ∧
    decode .inbound request = .instr (.rx request) := by
  decide +kernel

/-- R71, the events without operands. -/
theorem test_decode_plain_events :
    decode .operation [0x00] = .instr .reset ∧ decode .operation [0x02] = .instr .disconnect ∧
    decode .operation [0x03] = .instr .transportFail ∧ decode .operation [0x07] = .instr .kaStop ∧
    decode .operation [0x09] = .instr .tick := by
  decide

/-- R71, the events with operands, packed as log 2 says. -/
theorem test_decode_events :
    decode .operation [0x01, 0x11] = .instr (.connect 0x11) ∧
    decode .operation [0x04, 0xFD, 0x06, 0x01, 0x02] = .instr (.read 0xFD06 258) ∧
    decode .operation [0x05, 0xFA, 0x00, 0xC4, 0x00, 0x07] = .instr (.write 0xFA00 0xC400 7) ∧
    decode .operation [0x16, 0x01, 0x02, 0x03, 0x04] = .instr (.kaStart 0x01020304 true) ∧
    decode .operation [0x06, 0x00, 0x00, 0x00, 0x03] = .instr (.kaStart 3 false) ∧
    decode .operation [0x08, 0x01, 0x83] = .instr (.rx [0x01, 0x83]) := by
  decide

/-- R71: 0xA to 0xF are reserved; and the model's own rejections (log 14). -/
theorem test_decode_rejects :
    (List.range 6).map (fun k => decode .operation [BitVec.ofNat 8 (0xA + k)]) =
      (List.range 6).map (fun k => .reject (.reservedOpCode (0xA + k))) ∧
    decode .operation [] = .reject .emptyOpWord ∧
    decode .operation [0x12] = .reject .surplusOperandBits ∧
    decode .operation [0x02, 0x00] = .reject .surplusOperandBits ∧
    decode .operation [0x36, 0, 0, 0, 3] = .reject .surplusOperandBits := by
  decide

/-- Internal operations have no code (R71) and no bytes. -/
theorem test_encode_internal :
    [Instr.crc [], .encRd 1 2, .encWr 1 2 3, .encProbe 1, .decode [], .transmit, .kaFire,
      .kaDone (.ok 0)].map encode = List.replicate 8 [] := by
  decide

/-- The numbering of the opcode table: codes in 8 bits, a WRRSP by its selector over {byte0, byte1},
an RDRSP of 0 data bytes, an RDREQ as the 64-bit string of R61. -/
theorem test_decode_table_words :
    decodeTableWord 8 0x9 = some .tick ∧ decodeTableWord 8 0xA = none ∧
    decodeTableWord 64 0x0006 = some (.wrrsp 0 0 0 0) ∧
    decodeTableWord 16 0x0003 = some (.rdrsp 0 [] 0) ∧
    decodeTableWord 64 0x0103FD06000155A7 = some (.rdreq 0x01 0xFD06) := by
  decide +kernel

/-- R151. -/
theorem test_error_numbers :
    [CmdOutcome.ok 5, .err .transportUnavailable, .err .linkClosed, .err .timeout, .err .crcError,
      .err .malformedFrame].map outcomeNumber = [0, 1, 2, 3, 4, 5] := by
  decide

/-! ## One step each: spec/95_test_vectors.md -/

/-- K5, K1, and the values of section 2.1. -/
theorem test_crc :
    nextHas (exec (.crc [0x31, 0x32, 0x33, 0x34, 0x35, 0x36, 0x37, 0x38, 0x39]) .reset)
      (fun t => decide (t.ret = some (.crc 0x374B))) = true ∧
    computeCRC [] = 0xFFFF ∧ crcBit 0xA001 = 0xF001 := by
  decide +kernel

/-- E7, W5, E8. -/
theorem test_encoders :
    nextHas (exec (.encRd 0x11 0xFA00) .reset) (fun t => decide (t.ret =
      some (.frame [0x11, 0x03, 0xFA, 0x00, 0x00, 0x01, 0xB6, 0x42]))) = true ∧
    nextHas (exec (.encWr 0x01 0xFD06 0x0018) .reset) (fun t => decide (t.ret =
      some (.frame [0x01, 0x06, 0xFD, 0x06, 0x00, 0x18, 0x58, 0x6D]))) = true ∧
    nextHas (exec (.encProbe 0x01) .reset) (fun t => decide (t.ret =
      some (.frame probeFrame))) = true := by
  decide +kernel

/-- E1, W1, E8 as the outbound frames they build. -/
theorem test_outbound_frames :
    nextHas (exec (.rdreq 0x01 0xFD06) .reset) (fun t => decide (t.ret = some (.frame request))) =
      true ∧
    nextHas (exec (.wrreq 0x01 0xFA00 0xC400) .reset)
      (fun t => decide (t.ret = some (.frame echo))) = true ∧
    nextHas (exec (.probe 0x01 0x03 0xFD00 0x0001) .reset)
      (fun t => decide (t.ret = some (.frame probeFrame))) = true := by
  decide +kernel

/-- D-12, D-7, D-16, D-19, D-21. -/
theorem test_decode_frames :
    [[0x01, 0x03, 0x04, 0xDE, 0xAD, 0xBE, 0xEF, 0x61, 0xD6], shortest,
      [0x01, 0x03, 0x02, 0x00, 0x18, 0x4E, 0xB8], unknown, request].map decodeFrame =
    [.message { address := 0x01, function := 0x03, value := 3735928559, crc := 0x61D6 } 9,
      .message { address := 0x01, function := 0x03, value := 0, crc := 0x20F0 } 5, .crcError 7,
      .needMoreBytes, .needMoreBytes] := by
  decide +kernel

theorem test_decode_op :
    nextHas (exec (.decode [0x02, 0x03, 0x02, 0x00, 0x18, 0xB8, 0x4E]) session)
      (fun t => decide (t.ret = some (.crcError 7))) = true := by
  decide +kernel

/-- D5: what was pending is gone, nothing is resolved. -/
theorem test_reset :
    nextHas (step (word [0x00] { probing with fault := some .rxOverflow }))
      (fun t => decide (t = State.reset)) = true := by
  decide +kernel

/-- Q3 and X2. -/
theorem test_connect :
    nextHas (step (word [0x01, 0x01] .reset)) (fun t => decide (t = session)) = true ∧
    refusedWith (step (word [0x01, 0x02] session)) .connectWhileConnected = true := by
  decide +kernel

/-- Q8 and Q10. -/
theorem test_disconnect :
    nextHas (step (word [0x02] twoPending)) (fun t => decide (t = { State.reset with
      out := [.resolve 1 (.err .linkClosed), .resolve 2 (.err .linkClosed)] })) = true ∧
    nextHas (step (word [0x02] .reset)) (fun t => decide (t = .reset)) = true := by
  decide +kernel

/-- P8 step 7: the keepalive is not armed again. -/
theorem test_transport_fail :
    nextHas (step (word [0x03] { probing with
        queue := [readCmd 1 .inFlight, readCmd 2 .queued, probeCmd .queued, readCmd 3 .queued] }))
      (fun t => decide (t.out = [.resolve 1 (.err .linkClosed), .resolve 2 (.err .linkClosed),
        .kaResult (.err .linkClosed), .resolve 3 (.err .linkClosed)]) &&
        decide (t.kaTimer = none) && !t.kaOutstanding && !t.linkUp) = true := by
  decide +kernel

/-- Q1 and Q4. -/
theorem test_read :
    nextHas (step (word [0x04, 0xFD, 0x06, 0x04] .reset)) (fun t => decide (t = { State.reset with
      out := [.resolve 4 (.err .transportUnavailable)] })) = true ∧
    nextHas (step (word [0x04, 0xFD, 0x06, 0x01] session)) (fun t => decide (t = { oneInFlight with
      out := [.tx request] })) = true := by
  decide +kernel

/-- X4. -/
theorem test_read_full_queue :
    refusedWith (step (word [0x04, 0xFD, 0x06, 0x03] { twoPending with cfg := capped none (some 2) }))
      .queueFull = true := by
  decide +kernel

/-- Q5 and Q2. -/
theorem test_write :
    nextHas (step (word [0x05, 0xFA, 0x00, 0xC4, 0x00, 0x02] oneInFlight))
      (fun t => decide (t = twoPending)) = true ∧
    nextHas (step (word [0x05, 0xFA, 0x00, 0xC4, 0x00, 0x05] .reset))
      (fun t => decide (t.out = [.resolve 5 (.err .transportUnavailable)])) = true := by
  decide +kernel

/-- A8's first event, A1, X1. -/
theorem test_ka_start :
    nextHas (step (word [0x06, 0, 0, 0, 5] probing)) (fun t => decide (t = { probing with
      kaInterval := 5, kaObserver := false })) = true ∧
    nextHas (step (word [0x16, 0, 0, 0, 3] session))
      (fun t => decide (t.kaTimer = some 3) && t.kaEnabled && t.kaObserver) = true ∧
    refusedWith (step (word [0x16, 0, 0, 0, 0] session)) .zeroInterval = true := by
  decide +kernel

/-- A5's first event. -/
theorem test_ka_stop :
    nextHas (step (word [0x07] { probing with kaTimer := some 2 }))
      (fun t => decide (t = { probing with kaEnabled := false })) = true := by
  decide +kernel

/-- P2 step 7 in one chunk after the other: the head is resolved, then the next frame goes out. -/
theorem test_rx_resolves :
    nextHas (step (word (0x08 :: response) twoPending)) (fun t => decide (t = { session with
      queue := [writeCmd 2 .inFlight], out := [.resolve 1 (.ok 24), .tx echo] })) = true := by
  decide +kernel

/-- Section 4.3, the mis-framed response: the declared 9 bytes are dropped, the rest stalls. -/
theorem test_rx_misframed :
    nextHas (step (line response { oneInFlight with
        rxBuf := [0x01, 0x03, 0x04, 0x00, 0x18, 0xB8, 0x4E] }))
      (fun t => decide (t.rxBuf = [0x02, 0x00, 0x18, 0xB8, 0x4E]) && t.rxStalled &&
        decide (t.out = [.log (.crcError [0x01, 0x03, 0x04, 0x00, 0x18, 0xB8, 0x4E, 0x01, 0x03])]))
      = true := by
  decide +kernel

/-- Q6, and Q11: without a session the chunk is gone. -/
theorem test_rdrsp :
    nextHas (exec (.rdrsp 0x01 [0x00, 0x18] 0xB84E) session) (fun t => decide (t.out =
      [.log (.unsolicited { address := 0x01, function := 0x03, value := 24, crc := 0xB84E })])) =
      true ∧
    nextHas (exec (.rdrsp 0x01 [0x00, 0x18] 0xB84E) .reset) (fun t => decide (t = .reset)) = true := by
  decide +kernel

/-- Q7: no matching of content or address; D-15: a wrong CRC is logged. -/
theorem test_wrrsp :
    nextHas (exec (.wrrsp 0x01 0xFA00 0xC400 0xEBD2) { oneInFlight with devAddr := 0x11 })
      (fun t => decide (t.out = [.resolve 1 (.ok 50176)]) && t.idle) = true ∧
    nextHas (exec (.wrrsp 0x01 0xFA00 0xC400 0xEBD3) oneInFlight)
      (fun t => decide (t.out = [.log (.crcError badEcho)]) && t.busy) = true := by
  decide +kernel

/-- X6 and X7. -/
theorem test_rx_overflow :
    nextHas (step (word [0x08, 0, 0, 0, 0, 0, 0]
        { session with cfg := capped (some 8) none, rxBuf := [0x01, 0x03, 0xFF] }))
      (fun t => decide (t.fault = some .rxOverflow) && decide (t.rxBuf = [0x01, 0x03, 0xFF])) = true ∧
    nextHas (step (word (0x08 :: echo) { session with cfg := capped (some 8) none }))
      (fun t => decide (t.fault = none) && decide (t.rxBuf = []) &&
        decide (t.out.length = 1)) = true := by
  decide +kernel

/-- A3's third tick, A11. -/
theorem test_tick_fires :
    nextHas (step (word [0x09] { probing with kaOutstanding := false, kaTimer := some 1, queue := [] }))
      (fun t => decide (t = { probing with out := [.tx probeFrame] })) = true ∧
    nextHas (step (word [0x09] session)) (fun t => decide (t = session)) = true := by
  decide +kernel

/-- TICK_MS (R6): one TICK takes 4 ms off, and ends a wait of 4 ms. -/
theorem test_tick_ms :
    let c := { Config.default with tickMs := 4 }
    nextHas (step (word [0x09] { session with cfg := c, kaTimer := some 5 }))
      (fun t => decide (t.kaTimer = some 1) && decide (t.out = [])) = true ∧
    nextHas (step (word [0x09] { session with cfg := c, kaTimer := some 4 }))
      (fun t => decide (t.kaTimer = none) && decide (t.out = [.tx probeFrame])) = true := by
  decide +kernel

/-- X5, and A9's second tick. -/
theorem test_tick_unsent :
    refusedWith (step (word [0x09] { twoPending with cfg := capped none (some 2), kaTimer := some 1 }))
      .queueFull = true ∧
    nextHas (step (word [0x09]
        { probing with linkUp := false, kaOutstanding := false, kaInterval := 2, kaTimer := some 1,
                       queue := [] }))
      (fun t => decide (t.out = [.kaResult (.err .transportUnavailable)]) &&
        decide (t.kaTimer = some 2) && !t.kaOutstanding) = true := by
  decide +kernel

/-- SUBMIT behind a Command in flight. -/
theorem test_submit :
    nextHas (exec (.submit echo .write 0xFA00 0xC400 (.caller 2)) oneInFlight)
      (fun t => decide (t = twoPending)) = true := by
  decide +kernel

/-- A4: to the observer, and the wait is armed again. -/
theorem test_deliver :
    nextHas (exec (.deliver .keepalive (.ok 1)) probing) (fun t =>
      decide (t.out = [.kaResult (.ok 1)]) && decide (t.kaTimer = some 3) && !t.kaOutstanding) = true ∧
    nextHas (exec (.deliver (.caller 7) (.ok 1)) probing)
      (fun t => decide (t.out = [.resolve 7 (.ok 1)]) && t.kaOutstanding) = true := by
  decide +kernel

theorem test_transmit :
    nextHas (exec .transmit { session with queue := [readCmd 1 .queued, readCmd 2 .queued] })
      (fun t => decide (t.queue = [readCmd 1 .inFlight, readCmd 2 .queued]) &&
        decide (t.out = [.tx request])) = true ∧
    nextHas (exec .transmit twoPending) (fun t => decide (t = twoPending)) = true := by
  decide +kernel

theorem test_on_message :
    nextHas (exec (.onMessage { address := 0x11, function := 0x06, value := 3, crc := 0 }) twoPending)
      (fun t => decide (t.out = [.resolve 1 (.ok 3), .tx echo])) = true := by
  decide +kernel

/-- P8 step 5: behind the queue. -/
theorem test_ka_fire :
    nextHas (exec .kaFire oneInFlight) (fun t => t.kaOutstanding &&
      decide (t.queue = [readCmd 1 .inFlight, probeCmd .queued]) && decide (t.out = [])) = true := by
  decide +kernel

/-- A5: stopped, so not armed again. -/
theorem test_ka_done :
    nextHas (exec (.kaDone (.ok 1)) { probing with kaEnabled := false })
      (fun t => decide (t.kaTimer = none) && decide (t.out = [.kaResult (.ok 1)])) = true := by
  decide +kernel

/-! ## Witnesses: what the hypotheses of the obligations ask for, met together -/

theorem witness_StepRunsDecodedInput :
    (word [0x09] session).inputs = [.bits .operation [0x09]] ∧
    decodeInput (.bits .operation [0x09]) = .instr .tick ∧ Instr.tick.wf session.cfg = true := by
  decide +kernel

theorem witness_StepStopsOnRejectedInput :
    State.reset.inputs = [] ∧
    (word [] session).inputs = [.bits .operation []] ∧
    decodeInput (.bits .operation []) = .reject .emptyOpWord ∧
    decodeInput (.bits .operation [0x04, 0x00, 0x00, 0x10]) = .instr (.read 0 16) ∧
    (Instr.read 0 16).wf { Config.default with handleW := some 4 } = false ∧
    0xA ≤ (0x0A : Byte).toNat % 16 ∧ 0xA ≤ (0xFF : Byte).toNat % 16 := by
  decide +kernel

theorem witness_InternalOperationsCannotEnter :
    decode .operation [0x09] = .instr .tick ∧ decode .inbound unknown = .instr (.rx unknown) ∧
    decodeInput (.bits .inbound echo) = .instr (.wrrsp 0x01 0xFA00 0xC400 0xEBD2) ∧
    ({ session with inputs := [.named .transmit] } : State).inputs = [.named .transmit] ∧
    Instr.transmit.port = none := by
  decide +kernel

theorem witness_DecodeInvertsEncode :
    (Instr.rdrsp 0x01 (List.replicate 255 0) 0).wf Config.default = true ∧
    (Instr.rdrsp 0x01 [] 0).wf Config.default = true ∧
    (Instr.rdrsp 0x01 [] 0).port = some .inbound ∧
    (Instr.probe 1 0x03 0xFD00 0x0002).wf { Config.default with kaValue := 0x0002 } = true ∧
    (Instr.probe 1 0x03 0xFD00 0x0002).port = some .outbound ∧
    (0x03 : Byte) ≠ 0x06 ∧ ¬ ((0x03 : Byte) = 0x03 ∧ (0x0002 : Half) = 0x0001) := by
  decide +kernel

theorem witness_EncodeInvertsDecodeOnLine :
    decode .outbound request = .instr (.rdreq 0x01 0xFD06) ∧
    decode .inbound response = .instr (.rdrsp 0x01 [0x00, 0x18] 0xB84E) ∧
    decode .inbound [] = .instr (.rx []) := by
  decide +kernel

theorem witness_OnlyKnownFramesAreEncoded :
    decode .outbound request = .instr (.rdreq 0x01 0xFD06) ∧
    (Instr.rdreq 0x01 0xFD06).wf Config.default = true ∧
    builtUnder Config.default probeFrame ∧
    ({ session with inputs := [.bits .outbound response] } : State).inputs =
      [.bits .outbound response] ∧
    ¬ builtUnder session.cfg response ∧
    (∀ f k r v o, Instr.rx response ≠ .submit f k r v o) ∧
    (∀ c ∈ twoPending.queue, builtUnder twoPending.cfg c.frame) ∧
    ∃ t, exec (.rx response) twoPending = .next t ∧ decide (t.out.length = 2) = true := by
  refine ⟨by decide +kernel, by decide, Or.inr (Or.inr ⟨0x01, by decide +kernel⟩), rfl, ?_, by simp, ?_,
    next_of_has (by decide +kernel)⟩
  · intro h
    have : response.length = 8 := by
      rcases h with ⟨a, r, h⟩ | ⟨a, r, v, h⟩ | ⟨a, h⟩ <;> rw [h] <;> rfl
    exact absurd this (by decide)
  have hr : request = encRdFrame 0x01 0xFD06 := by decide +kernel
  have hw : echo = encWrFrame 0x01 0xFA00 0xC400 := by decide +kernel
  intro c hc
  simp [twoPending, readCmd, writeCmd] at hc
  rcases hc with rfl | rfl
  · exact Or.inl ⟨_, _, hr⟩
  · exact Or.inr (Or.inl ⟨_, _, _, hw⟩)

theorem witness_CrcByteIsEightSteps : lo8 0x1234 = 0x34 := by decide

/-- Also of DecodeIsPrefixStable, PureOperationsAnswerTheirValue. -/
theorem witness_FramesEndWithTheirCrc :
    decodeFrame shortest =
      .message { address := 0x01, function := 0x03, value := 0, crc := 0x20F0 } 5 ∧
    decodeFrame badEcho = .crcError 8 ∧ decodeFrame [] = .needMoreBytes ∧
    decodeFrame [0x01, 0x03] = .needMoreBytes ∧ 2 ≤ [(0x01 : Byte), 0x03].length ∧
    byteAt [0x01, 0x03] 1 = 0x03 := by
  decide +kernel

theorem witness_DecodeComparesTheWholeCrc :
    2 ≤ shortest.length ∧ byteAt shortest 1 = 0x03 ∧ 3 ≤ shortest.length ∧
    5 = 3 + (byteAt shortest 2).toNat + 2 ∧ 5 ≤ shortest.length ∧
    computeCRC (shortest.take 3) = join (byteAt shortest 3) (byteAt shortest 4) ∧
    2 ≤ badEcho.length ∧ byteAt badEcho 1 = 0x06 ∧ 8 ≤ badEcho.length ∧
    computeCRC (badEcho.take 6) ≠ join (byteAt badEcho 6) (byteAt badEcho 7) := by
  decide +kernel

theorem witness_UnknownFunctionIsNeverDecided :
    2 ≤ [(0x01 : Byte), 0x00].length ∧ byteAt [0x01, 0x00] 1 ≠ 0x03 ∧
    byteAt [0x01, 0x00] 1 ≠ 0x06 := by
  decide

theorem witness_ReadResponseValueIsExact :
    ([] : List Byte).length ≤ 255 ∧ (List.replicate 255 (0xFF : Byte)).length ≤ 255 := by
  decide +kernel

theorem witness_ReceiveUnrollsFrameByFrame :
    State.reset.linkUp = false ∧ session.linkUp = true ∧
    (∃ cap, (capped (some 4) none).rxBufCap = some cap ∧ cap < session.rxBuf.length + shortest.length) ∧
    ({ session with cfg := capped (some 5) none } : State).roomFor shortest.length ∧
    decodeFrame (session.rxBuf ++ [0x01]) = .needMoreBytes ∧
    decodeFrame (session.rxBuf ++ badEcho) = .crcError 8 ∧
    decodeFrame (session.rxBuf ++ shortest) =
      .message { address := 0x01, function := 0x03, value := 0, crc := 0x20F0 } 5 := by
  refine ⟨rfl, rfl, ⟨4, rfl, by decide⟩, room_within rfl (by decide), ?_⟩
  decide +kernel

/-- Also of BadFrameIsConsumedAndLogged's and ReceiveConsumesWholeFramesOnly's room, exactly full. -/
theorem witness_BadFrameIsConsumedAndLogged :
    let s := { session with cfg := capped (some 8) none }
    s.linkUp = true ∧ s.rxBuf = [] ∧ s.roomFor 8 ∧ s.roomFor badEcho.length ∧
    decodeFrame (s.rxBuf ++ badEcho) = .crcError 8 ∧
    decodeFrame (s.rxBuf ++ [0x01, 0x03, 0x00, 0x20, 0xF1]) = .crcError 5 := by
  refine ⟨rfl, rfl, room_within rfl (by decide), room_within rfl (by decide), ?_⟩
  decide +kernel

theorem witness_ReceiveConsumesWholeFramesOnly :
    session.linkUp = true ∧ session.roomFor (echo ++ response).length :=
  ⟨rfl, room_unbounded _ rfl⟩

theorem witness_ReceiveLeavesTheRestAlone :
    (∃ t, exec (.rx response) probing = .next t) ∧
    (∃ t, exec (.rdrsp 0x01 [0x00, 0x18] 0xB84E) probing = .next t) ∧
    (∃ t, exec (.wrrsp 0x01 0xFA00 0xC400 0xEBD2) probing = .next t) :=
  ⟨⟨_, rfl⟩, ⟨_, rfl⟩, ⟨_, rfl⟩⟩

theorem witness_ChunkingIsImmaterial :
    let s := { oneInFlight with cfg := capped (some 8) none, rxBuf := [0x01] }
    let chunks : List (List Byte) := [[0x03], [], [0x02, 0x00, 0x18, 0xB8, 0x4E]]
    s.linkUp = true ∧ s.roomFor chunks.flatten.length ∧ decodeFrame s.rxBuf = .needMoreBytes :=
  ⟨rfl, room_within rfl (by decide), by decide +kernel⟩

theorem witness_FlippedCrcBitIsDropped :
    (∃ m, decodeFrame shortest = .message m shortest.length) ∧
    (∃ m, decodeFrame echo = .message m echo.length) ∧ 0 < 16 ∧ 15 < 16 ∧
    session.linkUp = true ∧ session.rxBuf = [] ∧ session.roomFor (echo.length + response.length) := by
  refine ⟨⟨{ address := 0x01, function := 0x03, value := 0, crc := 0x20F0 }, by decide +kernel⟩,
    ⟨{ address := 0x01, function := 0x06, value := 50176, crc := 0xEBD2 }, by decide +kernel⟩,
    by decide, by decide, rfl, rfl, room_unbounded _ rfl⟩

theorem witness_StallPersists :
    let s := { oneInFlight with rxBuf := [0x01, 0x00] }
    s.linkUp = true ∧ s.rxStalled = true ∧ endsSession .tick = false ∧
    (∃ t, exec .tick s = .next t) ∧ endsSession (.rx echo) = false ∧
    (∃ t, exec (.rx echo) s = .next t) ∧ s.roomFor echo.length :=
  ⟨rfl, by decide, rfl, ⟨_, rfl⟩, rfl, ⟨_, rfl⟩, room_unbounded _ rfl⟩

theorem witness_ResponseResolvesHeadAndSendsNext :
    let s := { twoPending with cfg := capped (some 8) none }
    s.linkUp = true ∧ s.rxBuf = [] ∧ s.queue = readCmd 1 .inFlight :: [writeCmd 2 .queued] ∧
    (readCmd 1 .inFlight).st = .inFlight ∧ (readCmd 1 .inFlight).origin = .caller 1 ∧
    (∀ d ∈ [writeCmd 2 .queued], d.st = .queued) ∧ ([] : List Byte).length ≤ 255 ∧
    s.roomFor (5 + ([] : List Byte).length) ∧ s.roomFor 8 ∧
    (List.replicate 255 (0 : Byte)).length ≤ 255 ∧ twoPending.roomFor (5 + 255) :=
  ⟨rfl, rfl, rfl, rfl, rfl, by decide, by decide, room_within rfl (by decide),
    room_within rfl (by decide), by decide +kernel, room_unbounded _ rfl⟩

theorem witness_GateSendsTheOldestQueued :
    (∃ c ∈ twoPending.queue, c.st = .inFlight) ∧ (∀ c ∈ session.queue, c.st ≠ .queued) ∧
    (∀ c ∈ oneInFlight.queue, c.st ≠ .queued) ∧
    (∀ d ∈ ({ session with queue := [readCmd 1 .queued, readCmd 2 .queued] } : State).queue,
      d.st = .queued) := by
  decide

/-- Also of WriteSubmitsItsFrame, SubmitQueuesOrFailsAtOnce, KeepaliveFiresAProbe: without a link; with
an empty queue; with a Command in flight and one place left; with none left. -/
theorem witness_ReadSubmitsItsFrame :
    State.reset.linkUp = false ∧
    (session.linkUp = true ∧ session.roomInQueue ∧ session.queue = [] ∧ session.rxBuf = []) ∧
    (let s := { oneInFlight with cfg := capped none (some 2) }
     s.linkUp = true ∧ s.roomInQueue ∧ s.busy = true) ∧
    (let s := { oneInFlight with cfg := capped none (some 1) }
     s.linkUp = true ∧ s.cfg.queueCap = some s.queue.length) := by
  decide

theorem witness_MessageResolvesTheCommandInFlight :
    (let before := [writeCmd 2 .queued]
     let s := { session with queue := before ++ readCmd 1 .inFlight :: [readCmd 3 .inFlight] }
     s.queue = before ++ readCmd 1 .inFlight :: [readCmd 3 .inFlight] ∧
     (∀ d ∈ before, d.st ≠ .inFlight) ∧ (readCmd 1 .inFlight).st = .inFlight) ∧
    (∀ d ∈ ({ session with queue := [writeCmd 2 .queued] } : State).queue, d.st ≠ .inFlight) := by
  decide

/-- Of ConnectOpensAnEmptySession and LinkLossFailsEveryCommand. -/
theorem witness_LinkLossFailsEveryCommand :
    State.reset.linkUp = false ∧ twoPending.linkUp = true := by decide

theorem witness_ThreeCommandsResolveInOrder :
    session.linkUp = true ∧ session.queue = [] ∧ session.rxBuf = [] ∧
    session.cfg.queueCap = none ∧ session.cfg.rxBufCap = none ∧
    decodeFrame response = .message { address := 0x01, function := 0x03, value := 24, crc := 0xB84E }
      response.length ∧
    decodeFrame echo = .message { address := 0x01, function := 0x06, value := 50176, crc := 0xEBD2 }
      echo.length := by
  decide +kernel

/-- Also of FramesGoOutInSubmissionOrder, TransmissionsBalanceResponses and
OnlyTwoErrorsAreEverDelivered: a queue that meets the invariant, an event that completes. -/
theorem witness_OutcomesComeInSubmissionOrder :
    (let s := { twoPending with kaObserver := true }
     s.QueueInv ∧ s.kaObserver = true ∧
     (Instr.rx (response ++ echo)).fromOutside = true ∧ Instr.rx (response ++ echo) ≠ .reset ∧
     endsSession (.rx (response ++ echo)) = false ∧
     ∃ t, exec (.rx (response ++ echo)) s = .next t ∧
       decide (t.out = [.resolve 1 (.ok 24), .tx echo, .resolve 2 (.ok 50176)]) = true) ∧
    (session.QueueInv ∧ (Instr.read 0xFD06 4).fromOutside = true ∧
      ∃ t, exec (.read 0xFD06 4) session = .next t) := by
  refine ⟨⟨by decide, rfl, rfl, by decide, rfl, ?_⟩, by decide, rfl, ⟨_, rfl⟩⟩
  exact next_of_has (by decide +kernel)

/-- The three ways an outcome leaves: a response, a submission without a link, link loss. -/
theorem witness_OnlyTwoErrorsAreEverDelivered :
    (∃ t, exec (.rx response) oneInFlight = .next t ∧
      decide (t.out = [.resolve 1 (.ok 24)]) = true) ∧
    (∃ t, exec (.read 0xFD06 4) State.reset = .next t ∧
      decide (t.out = [.resolve 4 (.err .transportUnavailable)]) = true) ∧
    (∃ t, exec .disconnect oneInFlight = .next t ∧
      decide (t.out = [.resolve 1 (.err .linkClosed)]) = true) :=
  ⟨next_of_has (by decide +kernel), next_of_has (by decide +kernel), next_of_has (by decide +kernel)⟩

theorem witness_KeepaliveStartsAndStops :
    (1 : Nat) ≠ 0 ∧ session.kaOutstanding = false ∧
    probing.kaOutstanding = true := by
  decide

theorem witness_TickCountsTheWaitDown :
    session.kaTimer = none ∧
    (let s := { session with kaTimer := some (2 : Nat) }
     s.kaTimer = some 2 ∧ s.cfg.tickMs < 2) ∧
    (let s := { session with kaTimer := some (1 : Nat) }
     s.kaTimer = some 1 ∧ 1 ≤ s.cfg.tickMs ∧ s.linkUp = true ∧ s.roomInQueue ∧ s.queue = []) := by
  decide

theorem witness_ProbeGoesOutAtTheIntervalsLastTick :
    session.linkUp = true ∧ session.queue = [] ∧ session.kaOutstanding = false ∧
    session.cfg.queueCap ≠ some 0 ∧ (capped none (some 1)).queueCap ≠ some 0 ∧
    0 * session.cfg.tickMs < 1 ∧ 1 ≤ (0 + 1) * session.cfg.tickMs ∧
    0 * ({ Config.default with tickMs := 0 } : Config).tickMs < 1 := by
  decide

theorem witness_EveryStepKeepsInvariant :
    let s := line (response ++ [0x01, 0x06]) { probing with cfg := capped (some 9) (some 1) }
    s.Inv ∧ ∃ t, step s = .next t ∧ decide (t.out = [.kaResult (.ok 24)]) = true :=
  ⟨by decide +kernel, next_of_has (by decide +kernel)⟩

theorem witness_OperationsAreRefusedExactlyAsListed :
    refusalOf (.connect 1) session = some .connectWhileConnected ∧
    refusalOf (.kaStart 0 true) session = some .zeroInterval ∧
    refusalOf (.read 0 1) { oneInFlight with cfg := capped none (some 1) } = some .queueFull ∧
    refusalOf .tick { oneInFlight with cfg := capped none (some 1), kaTimer := some 1 } =
      some .queueFull ∧
    refusalOf .tick session = none ∧ refusalOf (.rx response) session = none := by
  decide +kernel

/-- The address by CONNECT and by RESET; the fault mark kept, and set by bytes that do not fit. -/
theorem witness_OnlyTheirWritersChangeThem :
    (∃ t, exec (.connect 0x11) State.reset = .next t ∧
      decide (t.devAddr ≠ State.reset.devAddr) = true) ∧
    (∃ t, exec .reset { session with devAddr := 0x11 } = .next t ∧
      decide (t.devAddr ≠ 0x11) = true) ∧
    (∃ t, exec .tick { session with fault := some .rxOverflow } = .next t ∧
      decide (t.fault ≠ none) = true) ∧
    (∃ t, exec (.wrrsp 0x01 0xFA00 0xC400 0xEBD2) { session with cfg := capped (some 7) none } =
      .next t ∧ decide (t.fault ≠ none) = true) :=
  ⟨next_of_has (by decide +kernel), next_of_has (by decide +kernel), next_of_has (by decide +kernel),
    next_of_has (by decide +kernel)⟩

end Sys2Proof.Tests
end

section
/-! The byte layouts of the two request frames (spec/30_encoding.md R61, R62), from the layout shared
by the outbound frames, `buildFrame_eq`. -/

namespace Sys2Proof.Machine

/-- The read request as its eight bytes: the shared layout with the fixed count 0x0001 (R61). -/
theorem encRdFrame_eq (addr : Byte) (reg : Half) :
    let c := computeCRC [addr, 0x03, hi8 reg, lo8 reg, 0x00, 0x01]
    encRdFrame addr reg = [addr, 0x03, hi8 reg, lo8 reg, 0x00, 0x01, hi8 c, lo8 c] := by
  have hhi : hi8 0x0001 = 0x00 := by decide
  have hlo : lo8 0x0001 = 0x01 := by decide
  simpa only [encRdFrame, hhi, hlo] using buildFrame_eq addr 0x03 reg 0x0001

/-- The write request as its eight bytes: the shared layout with the value as second field (R62). -/
theorem encWrFrame_eq (addr : Byte) (reg value : Half) :
    let c := computeCRC [addr, 0x06, hi8 reg, lo8 reg, hi8 value, lo8 value]
    encWrFrame addr reg value =
      [addr, 0x06, hi8 reg, lo8 reg, hi8 value, lo8 value, hi8 c, lo8 c] :=
  buildFrame_eq addr 0x06 reg value

/-- Settles O18: the layout is `encRdFrame_eq`, the two examples are run. -/
theorem readRequestHasItsLayout : Obligations.ReadRequestHasItsLayout := by
  unfold Obligations.ReadRequestHasItsLayout
  refine ⟨encRdFrame_eq, ?_, ?_⟩
  · decide +kernel
  · decide +kernel

/-- Settles O19: the layout is `encWrFrame_eq`, the source's example is run. -/
theorem writeRequestHasItsLayout : Obligations.WriteRequestHasItsLayout := by
  unfold Obligations.WriteRequestHasItsLayout
  refine ⟨encWrFrame_eq, ?_⟩
  decide +kernel

end Sys2Proof.Machine
end

section
/-! The CRC engine (spec/40_crc.md R80 to R84): one iteration as arithmetic, one byte as eight
iterations, the fold over a sequence, the swap at the end, and the two bytes that end a frame. -/

namespace Sys2Proof.Machine

/-! One iteration (R80). -/

/-- Bit 0 is the parity, the shift is the halving: R80 over numbers. -/
theorem crcBit_toNat (a : Half) :
    (crcBit a).toNat = if a.toNat % 2 = 1 then (a.toNat / 2) ^^^ 0xA001 else a.toNat / 2 := by
  have hbit : a.getLsbD 0 = decide (a.toNat % 2 = 1) := by
    rw [BitVec.getLsbD, Nat.testBit_zero]
  have hshift : (a >>> 1).toNat = a.toNat / 2 := by
    rw [BitVec.toNat_ushiftRight, Nat.shiftRight_eq_div_pow]
  simp only [crcBit, hbit, decide_eq_true_eq]
  split
  · rw [BitVec.toNat_xor, hshift]; rfl
  · exact hshift

/-- Settles O10: the arithmetic form is `crcBit_toNat`, the five values are run. -/
theorem crcBitShiftsAndXors : Obligations.CrcBitShiftsAndXors := by
  unfold Obligations.CrcBitShiftsAndXors
  refine ⟨crcBit_toNat, ?_⟩
  decide

/-! One byte (R81). -/

/-- The operand is XORed into the low byte alone, and then come eight iterations (R81). -/
theorem crcByte_eq_iterate_join (a : Half) (b : Byte) :
    crcByte a b = crcBit^[8] (join (hi8 a) (lo8 a ^^^ b)) := by
  rw [crcByte_eq_iterate, ← join_xor_zeroExtend, join_hi8_lo8]

/-- Where the operand is the low byte, the XOR clears it and the eight iterations only shift (R81). -/
theorem crcByte_lo8 (a : Half) : crcByte a (lo8 a) = join 0 (hi8 a) := by
  rw [crcByte_eq_iterate_join, BitVec.xor_self, ← zeroExtend_eq_join]
  exact crcBit_iterate_high (hi8 a)

/-- Settles O11: `crcByte_eq_iterate_join` and `crcByte_lo8`, the worked examples are run. -/
theorem crcByteIsEightSteps : Obligations.CrcByteIsEightSteps := by
  unfold Obligations.CrcByteIsEightSteps
  refine ⟨crcByte_eq_iterate_join, ?_, ?_⟩
  · rintro a b rfl
    exact crcByte_lo8 a
  · decide +kernel

/-! A whole sequence (R82), and the returned value (R83). -/

/-- The accumulator takes one more byte at the end of the sequence (R82). -/
theorem crcAcc_append_singleton (s : List Byte) (b : Byte) :
    crcAcc (s ++ [b]) = crcByte (crcAcc s) b :=
  List.foldl_concat ..

/-- Settles O12: the fold's two equations, the byte-by-byte examples are run. -/
theorem crcAccumulatesFirstByteFirst : Obligations.CrcAccumulatesFirstByteFirst := by
  unfold Obligations.CrcAccumulatesFirstByteFirst
  refine ⟨crcAcc_nil, crcAcc_append_singleton, ?_⟩
  decide +kernel

theorem computeCRC_eq_join (bytes : List Byte) :
    computeCRC bytes = join (lo8 (crcAcc bytes)) (hi8 (crcAcc bytes)) := rfl

@[simp] theorem hi8_computeCRC (bytes : List Byte) :
    hi8 (computeCRC bytes) = lo8 (crcAcc bytes) := by
  rw [computeCRC_eq_join, hi8_join]

@[simp] theorem lo8_computeCRC (bytes : List Byte) :
    lo8 (computeCRC bytes) = hi8 (crcAcc bytes) := by
  rw [computeCRC_eq_join, lo8_join]

/-- Settles O13: the swap is `computeCRC_eq_join`, the corner cases and the examples are run. -/
theorem computeCrcSwapsTheAccumulator : Obligations.ComputeCrcSwapsTheAccumulator := by
  unfold Obligations.ComputeCrcSwapsTheAccumulator
  refine ⟨computeCRC_eq_join, ?_⟩
  decide +kernel

/-! The two bytes that end a frame (R84). -/

/-- A built frame's last two bytes are the returned value over its first six, high byte first. -/
theorem buildFrame_drop_six (addr func : Byte) (reg value : Half) :
    let f := buildFrame addr func reg value
    f.drop 6 = [hi8 (computeCRC (f.take 6)), lo8 (computeCRC (f.take 6))] := by
  simp only [buildFrame_eq, List.drop_succ_cons, List.drop_zero, List.take_succ_cons, List.take_zero]

/-- DECODE accepts a frame only where the CRC it carries is the one computed (R96). -/
theorem computeCRC_of_decodeFrame_message {buf : List Byte} {m : Message} {len : Nat}
    (h : decodeFrame buf = .message m len) :
    computeCRC (buf.take (len - 2)) = join (byteAt buf (len - 2)) (byteAt buf (len - 1)) := by
  obtain ⟨hlen, -, hfit⟩ := decodeFrame_decided (.inr ⟨m, h⟩)
  by_contra hne
  rw [decodeFrame_of_complete buf len hlen hfit, if_pos hne] at h
  cases h

/-- An accepted frame ends with the accumulator over the bytes before it, low byte first. -/
theorem crcAcc_bytes_of_decodeFrame_message {buf : List Byte} {m : Message} {len : Nat}
    (h : decodeFrame buf = .message m len) :
    byteAt buf (len - 2) = lo8 (crcAcc (buf.take (len - 2))) ∧
    byteAt buf (len - 1) = hi8 (crcAcc (buf.take (len - 2))) := by
  have hcrc := computeCRC_of_decodeFrame_message h
  rw [← hi8_computeCRC, ← lo8_computeCRC, hcrc, hi8_join, lo8_join]
  exact ⟨rfl, rfl⟩

/-- Settles O16: built frames by their layout, accepted ones by DECODE's comparison, and in both the
returned value is the accumulator swapped; the rule's example is run. -/
theorem framesEndWithTheirCrc : Obligations.FramesEndWithTheirCrc := by
  unfold Obligations.FramesEndWithTheirCrc
  refine ⟨?_, fun _ _ _ h => crcAcc_bytes_of_decodeFrame_message h, ?_⟩
  · intro addr func reg value f
    have hend := buildFrame_drop_six addr func reg value
    exact ⟨hend, by simpa only [hi8_computeCRC, lo8_computeCRC] using hend⟩
  · decide +kernel

end Sys2Proof.Machine
end

section
/-! DECODE by function code (spec/41_codec.md R95 to R99): a buffer with an unknown code has no length,
and a body with its own CRC decodes to a message whatever follows. -/

namespace Sys2Proof.Machine

/-! An unknown function code (R97). -/

/-- The length rule knows the two function codes only. -/
theorem frameLength_eq_none_of_unknown {buf : List Byte} (h3 : byteAt buf 1 ≠ 0x03)
    (h6 : byteAt buf 1 ≠ 0x06) : frameLength buf = none := by
  rw [Option.eq_none_iff_forall_ne_some]
  intro len hlen
  obtain ⟨-, ⟨hfunc, -⟩ | ⟨hfunc, -, -⟩⟩ := (frameLength_eq_some buf len).1 hlen
  · exact h6 hfunc
  · exact h3 hfunc

/-- Without a length DECODE waits, and the function code stays the second byte of every extension. -/
theorem decodeFrame_append_of_unknown {buf : List Byte} (s : List Byte) (hlen : 2 ≤ buf.length)
    (h3 : byteAt buf 1 ≠ 0x03) (h6 : byteAt buf 1 ≠ 0x06) :
    decodeFrame (buf ++ s) = .needMoreBytes := by
  have hfunc : byteAt (buf ++ s) 1 = byteAt buf 1 := byteAt_append buf s 1 hlen
  rw [← hfunc] at h3 h6
  rw [decodeFrame_needMoreBytes, frameLength_eq_none_of_unknown h3 h6]
  nofun

/-- Settles O24: `decodeFrame_append_of_unknown`, which the rule's example also falls under. -/
theorem unknownFunctionIsNeverDecided : Obligations.UnknownFunctionIsNeverDecided := by
  unfold Obligations.UnknownFunctionIsNeverDecided
  refine ⟨fun buf s => decodeFrame_append_of_unknown s, fun s => ?_⟩
  exact decodeFrame_append_of_unknown s (by decide) (by decide) (by decide)

/-! A body with its own CRC (R96), and the value of a write response (R99). -/

@[simp] theorem length_withCrc (body : List Byte) : (withCrc body).length = body.length + 2 := by
  simp [withCrc, halfBytes]

/-- What stands before the CRC is read back as it was written. -/
theorem byteAt_withCrc_append {body : List Byte} {i : Nat} (tail : List Byte)
    (h : i < body.length) : byteAt (withCrc body ++ tail) i = byteAt body i := by
  rw [withCrc, List.append_assoc, byteAt_append _ _ _ h]

/-- The two bytes behind the body join to the CRC over it (R84). -/
theorem join_byteAt_withCrc_append (body tail : List Byte) :
    join (byteAt (withCrc body ++ tail) body.length)
      (byteAt (withCrc body ++ tail) (body.length + 1)) = computeCRC body := by
  simp only [byteAt, withCrc, halfBytes, List.append_assoc, List.getD_append_right, Nat.le_refl,
    Nat.le_add_right, Nat.sub_self, Nat.add_sub_cancel_left, List.cons_append,
    List.getD_cons_zero, List.getD_cons_succ, join_hi8_lo8]

/-- A body with its own CRC, of the length the length rule gives it, is a valid frame (R96). -/
theorem decodeFrame_withCrc_append {body tail : List Byte}
    (h : frameLength (withCrc body ++ tail) = some (body.length + 2)) :
    decodeFrame (withCrc body ++ tail) = .message
      { address := byteAt body 0, function := byteAt body 1,
        value := frameValue (withCrc body ++ tail), crc := computeCRC body } (body.length + 2) := by
  have hmin : 5 ≤ body.length + 2 := (frameLength_bounds h).1
  have hfit : body.length + 2 ≤ (withCrc body ++ tail).length := by simp
  have htake : (withCrc body ++ tail).take body.length = body := by
    rw [withCrc, List.append_assoc, List.take_left]
  have hlast : body.length + 2 - 1 = body.length + 1 := rfl
  have haddr : byteAt (withCrc body ++ tail) 0 = byteAt body 0 :=
    byteAt_withCrc_append tail (by omega)
  have hfunc : byteAt (withCrc body ++ tail) 1 = byteAt body 1 :=
    byteAt_withCrc_append tail (by omega)
  rw [decodeFrame_of_complete _ _ h hfit, haddr, hfunc, Nat.add_sub_cancel,
    hlast, htake, join_byteAt_withCrc_append, if_neg (not_not_intro rfl)]

/-- The value of a write response (R99). -/
theorem frameValue_of_write {buf : List Byte} (h : byteAt buf 1 = 0x06) :
    frameValue buf = (byteAt buf 4).toNat * 256 + (byteAt buf 5).toNat := by
  have hfunc : byteAt buf 1 ≠ 0x03 := by rw [h]; decide
  rw [frameValue, if_neg hfunc, join_toNat]

/-- Settles O26: the frame is `decodeFrame_withCrc_append`, its value `frameValue_of_write`; the two
examples are run. -/
theorem writeResponseValueIsBytesFourAndFive :
    Obligations.WriteResponseValueIsBytesFourAndFive := by
  unfold Obligations.WriteResponseValueIsBytesFourAndFive
  refine ⟨?_, by decide +kernel, by decide +kernel⟩
  intro a r1 r2 v1 v2 tail body
  have hfunc : byteAt (withCrc body ++ tail) 1 = 0x06 := rfl
  have hlen : frameLength (withCrc body ++ tail) = some 8 := by
    rw [frameLength_eq_some]
    exact ⟨by simp [body]; omega, .inl ⟨hfunc, rfl⟩⟩
  have hvalue : frameValue (withCrc body ++ tail) = v1.toNat * 256 + v2.toNat :=
    frameValue_of_write hfunc
  rw [← hvalue]
  exact decodeFrame_withCrc_append hlen

end Sys2Proof.Machine
end

section
/-! A bad frame on the line (spec/42_reassembler.md R109): RX in a session with room is the loop
over the buffer with the chunk behind it, and the loop drops the bad frame and goes on. -/

namespace Sys2Proof.Machine

/-! The loop over a given buffer (R106). -/

/-- A bad frame at the front is logged and dropped, and the loop goes on behind it. -/
theorem drain_withRxBuf_of_crcError {buf : List Byte} {len : Nat} (s : State)
    (h : decodeFrame buf = .crcError len) :
    drain { s with rxBuf := buf } =
      drain { s with rxBuf := buf.drop len, out := s.out ++ [.log (.crcError (buf.take len))] } :=
  drain_crcError (s := { s with rxBuf := buf }) h

/-- A good frame at the front is removed, its Message delivered, and the loop goes on behind it. -/
theorem drain_withRxBuf_of_message {buf : List Byte} {m : Message} {len : Nat} (s : State)
    (h : decodeFrame buf = .message m len) :
    drain { s with rxBuf := buf } = drain (onMessage m { s with rxBuf := buf.drop len }) :=
  drain_message (s := { s with rxBuf := buf }) h

/-- With an empty buffer the loop has nothing to do (R107). -/
theorem drain_of_rxBuf_nil {s : State} (h : s.rxBuf = []) : drain s = s :=
  drain_needMoreBytes (by rw [h]; rfl)

theorem withRxBuf_nil {s : State} (h : s.rxBuf = []) : { s with rxBuf := [] } = s := by
  rw [← h]

/-! RX in a session with room (R106). -/

/-- RX completes, with what the loop makes of buffer and chunk. -/
theorem exec_rx_of_room {s : State} {chunk : List Byte} (hl : s.linkUp = true)
    (hr : s.roomFor chunk.length) :
    exec (.rx chunk) s = .next (drain { s with rxBuf := s.rxBuf ++ chunk }) :=
  congrArg Host.Outcome.next (receive_of_room hl hr)

/-- RX of no bytes is the loop over the buffer as it stands. -/
theorem exec_rx_nil_of_room {s : State} (hl : s.linkUp = true) (hr : s.roomFor 0) :
    exec (.rx []) s = .next (drain s) := by
  rw [exec_rx_of_room (chunk := []) hl hr, List.append_nil]

/-- RX into an empty buffer is the loop over the chunk. -/
theorem exec_rx_of_rxBuf_nil {s : State} {chunk : List Byte} (hl : s.linkUp = true)
    (hb : s.rxBuf = []) (hr : s.roomFor chunk.length) :
    exec (.rx chunk) s = .next (drain { s with rxBuf := chunk }) := by
  rw [exec_rx_of_room hl hr, hb, List.nil_append]

/-- Behind a bad frame RX goes on as RX of no bytes would: what is left fits the capacity (R109). -/
theorem exec_rx_of_crcError {s : State} {chunk : List Byte} {len : Nat} (hl : s.linkUp = true)
    (hr : s.roomFor chunk.length) (h : decodeFrame (s.rxBuf ++ chunk) = .crcError len) :
    exec (.rx chunk) s = exec (.rx [])
      { s with rxBuf := (s.rxBuf ++ chunk).drop len,
               out := s.out ++ [.log (.crcError ((s.rxBuf ++ chunk).take len))] } := by
  rw [exec_rx_of_room hl hr, drain_withRxBuf_of_crcError s h]
  symm
  refine exec_rx_nil_of_room ?_ fun cap hcap => ?_
  · exact hl
  · have hfit := hr cap hcap
    simp only [List.length_drop, List.length_append]
    omega

/-- A chunk that is one bad frame, into an empty buffer: one LOG event and nothing else (R109). -/
theorem exec_rx_bad_frame {s : State} {f : List Byte} (hl : s.linkUp = true) (hb : s.rxBuf = [])
    (hr : s.roomFor f.length) (h : decodeFrame f = .crcError f.length) :
    exec (.rx f) s = .next { s with out := s.out ++ [.log (.crcError f)] } := by
  rw [exec_rx_of_rxBuf_nil hl hb hr, drain_withRxBuf_of_crcError s h, List.drop_length,
    List.take_length, drain_of_rxBuf_nil rfl, ← hb]

/-- A chunk that is one good frame, into an empty buffer: its Message is delivered (R106). -/
theorem exec_rx_good_frame {s : State} {f : List Byte} {m : Message} (hl : s.linkUp = true)
    (hb : s.rxBuf = []) (hr : s.roomFor f.length) (h : decodeFrame f = .message m f.length) :
    exec (.rx f) s = exec (.onMessage m) s := by
  have hempty : (onMessage m s).rxBuf = [] := by rw [onMessage_rxBuf, hb]
  rw [exec_rx_of_rxBuf_nil hl hb hr, drain_withRxBuf_of_message s h, List.drop_length,
    withRxBuf_nil hb, drain_of_rxBuf_nil hempty]
  rfl

/-- The length of a bad frame is the one the received bytes declare (R95, R109). -/
theorem declared_length_of_crcError {buf : List Byte} {len : Nat}
    (h : decodeFrame buf = .crcError len) :
    (byteAt buf 1 = 0x06 ∧ len = 8) ∨
      (byteAt buf 1 = 0x03 ∧ len = 5 + (byteAt buf 2).toNat) := by
  obtain ⟨hlen, -, -⟩ := decodeFrame_decided (.inl h)
  obtain ⟨-, hwrite | ⟨hfunc, -, hread⟩⟩ := (frameLength_eq_some buf len).1 hlen
  · exact .inl hwrite
  · exact .inr ⟨hfunc, by omega⟩

/-- Settles O34: the length by `declared_length_of_crcError`, the drop by `exec_rx_of_crcError`; the
rule's two frames are decoded by evaluation. -/
theorem badFrameIsConsumedAndLogged : Obligations.BadFrameIsConsumedAndLogged := by
  unfold Obligations.BadFrameIsConsumedAndLogged
  refine ⟨fun s chunk len hl hr h => ?_, fun s hl hb hr => ⟨?_, ?_⟩⟩
  · exact ⟨declared_length_of_crcError h, exec_rx_of_crcError hl hr h⟩
  · exact exec_rx_bad_frame hl hb hr (by decide +kernel)
  · exact exec_rx_good_frame hl hb hr (by decide +kernel)

end Sys2Proof.Machine
end

section
/-! The correlator (spec/43_correlator.md R115 to R121): the transmission gate in its three cases,
SUBMIT in its three that complete, and the echo of a write, from submission to outcome. -/

namespace Sys2Proof.Machine

/-! TRANSMIT (R119). -/

/-- With a Command in flight the gate is closed. -/
theorem transmit_of_busy {s : State} (h : s.busy = true) : transmit s = s := by
  rw [transmit_eq, if_pos h]

/-- With nothing Queued the queue is empty or its Commands are in flight. -/
theorem transmit_of_none_queued {s : State} (h : ∀ c ∈ s.queue, c.st ≠ .queued) :
    transmit s = s := by
  cases hb : s.busy with
  | true => exact transmit_of_busy hb
  | false =>
    have hnil : s.queue = [] := List.eq_nil_iff_forall_not_mem.2 fun c hc =>
      h c hc ((busy_eq_false s).1 hb c hc)
    rw [transmit_eq, hb, hnil, if_neg Bool.false_ne_true]

/-- With every Command Queued the gate is open and the head is the oldest. -/
theorem transmit_of_all_queued {s : State} {c : Command} {rest : List Command}
    (hq : s.queue = c :: rest) (h : ∀ d ∈ s.queue, d.st = .queued) :
    transmit s =
      { s with queue := { c with st := .inFlight } :: rest, out := s.out ++ [.tx c.frame] } := by
  have hopen : s.busy = false := (busy_eq_false s).2 h
  rw [transmit_eq, hopen, hq, if_neg Bool.false_ne_true]

theorem exec_transmit (s : State) : exec .transmit s = .next (transmit s) := rfl

/-- Settles O38: the three cases of the gate. -/
theorem gateSendsTheOldestQueued : Obligations.GateSendsTheOldestQueued := by
  unfold Obligations.GateSendsTheOldestQueued
  refine ⟨fun s h => ?_, fun s h => ?_, fun s c rest hq h => ?_⟩
  · rw [exec_transmit, transmit_of_busy ((busy_eq_true s).2 h)]
  · rw [exec_transmit, transmit_of_none_queued h]
  · rw [exec_transmit, transmit_of_all_queued hq h]

/-! SUBMIT (R117). -/

section Submit
variable {s : State} {frame : List Byte} {kind : CmdKind} {reg value : Half} {origin : Origin}

/-- Without a link no Command is made, and a caller is told at once. -/
theorem submit_caller_of_linkDown {h : Handle} (hl : s.linkUp = false) :
    submit frame kind reg value (.caller h) s =
      .next { s with out := s.out ++ [.resolve h (.err .transportUnavailable)] } := by
  rw [submit, if_pos hl]
  rfl

/-- In a session with room the Command goes to the back, and the gate is tried. -/
theorem submit_of_room (hl : s.linkUp = true) (hr : s.roomInQueue) :
    submit frame kind reg value origin s = .next (transmit { s with queue := s.queue ++
      [{ kind := kind, reg := reg, value := value, frame := frame, origin := origin,
         st := .queued }] }) := by
  rcases submit_cases frame kind reg value origin s with
    ⟨hdown, -⟩ | ⟨-, hfull, -⟩ | ⟨-, -, hsubmit⟩
  · rw [hl] at hdown; cases hdown
  · exact absurd hfull hr
  · exact hsubmit

/-- On an idle session the new Command is the oldest, so the gate sends it. -/
theorem submit_of_queue_nil (hl : s.linkUp = true) (hr : s.roomInQueue) (hq : s.queue = []) :
    submit frame kind reg value origin s = .next
      { s with
        queue := [{ kind := kind, reg := reg, value := value, frame := frame, origin := origin,
                    st := .inFlight }]
        out := s.out ++ [.tx frame] } := by
  rw [submit_of_room hl hr, hq, List.nil_append, transmit_of_all_queued rfl (by simp)]

/-- Behind a Command in flight the new one waits. -/
theorem submit_of_busy (hl : s.linkUp = true) (hr : s.roomInQueue) (hb : s.busy = true) :
    submit frame kind reg value origin s = .next { s with queue := s.queue ++
      [{ kind := kind, reg := reg, value := value, frame := frame, origin := origin,
         st := .queued }] } := by
  rw [submit_of_room hl hr, transmit_of_busy]
  obtain ⟨c, hc, hflight⟩ := (busy_eq_true s).1 hb
  exact (busy_eq_true _).2 ⟨c, List.mem_append_left _ hc, hflight⟩

end Submit

/-! READ and WRITE are SUBMIT of the frame for the session's address (R115, R116). -/

theorem exec_read (reg : Half) (h : Handle) (s : State) :
    exec (.read reg h) s =
      submit (encRdFrame s.devAddr reg) .read reg 0x0001 (.caller h) s := rfl

theorem exec_write (reg value : Half) (h : Handle) (s : State) :
    exec (.write reg value h) s =
      submit (encWrFrame s.devAddr reg value) .write reg value (.caller h) s := rfl

/-- Settles O40: the three cases of SUBMIT for a caller; the example frame is run. -/
theorem readSubmitsItsFrame : Obligations.ReadSubmitsItsFrame := by
  unfold Obligations.ReadSubmitsItsFrame
  refine ⟨fun s reg h => ?_, by decide +kernel⟩
  rw [exec_read]
  exact ⟨rfl, submit_caller_of_linkDown, submit_of_queue_nil, submit_of_busy⟩

/-! The echo of a write (R116, R121). -/

/-- A write request decodes as its own response, with the value written (R64, R99). -/
theorem decodeFrame_encWrFrame (addr : Byte) (reg value : Half) :
    ∃ m, m.value = value.toNat ∧
      decodeFrame (encWrFrame addr reg value) = .message m (encWrFrame addr reg value).length := by
  have hdec : decodeFrame (encWrFrame addr reg value ++ []) = _ :=
    writeResponseValueIsBytesFourAndFive.1 addr (hi8 reg) (lo8 reg) (hi8 value) (lo8 value) []
  rw [List.append_nil] at hdec
  refine ⟨_, ?_, hdec⟩
  rw [← join_toNat, join_hi8_lo8]

/-- A Message for the head, in flight for a caller: its outcome, then the gate (R121). -/
theorem onMessage_of_head {s : State} {c : Command} {rest : List Command} {h : Handle} (m : Message)
    (hq : s.queue = c :: rest) (hc : c.st = .inFlight) (ho : c.origin = .caller h) :
    onMessage m s =
      transmit { s with queue := rest, out := s.out ++ [.resolve h (.ok m.value)] } := by
  have htake : takeInFlight s.queue = some (c, rest) := by rw [hq, takeInFlight, if_pos hc]
  simp only [onMessage, htake, ho]
  rfl

/-- The echo of the only Command, in flight for a caller, acknowledges it with the value written. -/
theorem exec_rx_echo_of_singleton {s : State} {c : Command} {h : Handle} (addr : Byte)
    (reg value : Half) (hl : s.linkUp = true) (hb : s.rxBuf = []) (hr : s.roomFor 8)
    (hq : s.queue = [c]) (hc : c.st = .inFlight) (ho : c.origin = .caller h) :
    exec (.rx (encWrFrame addr reg value)) s =
      .next { s with queue := [], out := s.out ++ [.resolve h (.ok value.toNat)] } := by
  obtain ⟨m, hvalue, hdec⟩ := decodeFrame_encWrFrame addr reg value
  have hexec : exec (.onMessage m) s = .next (onMessage m s) := rfl
  rw [exec_rx_good_frame (f := encWrFrame addr reg value) hl hb hr hdec, hexec,
    onMessage_of_head m hq hc ho, hvalue, transmit_of_none_queued (by simp)]

theorem execAll_pair {i j : Instr} {s t u : State} (hi : exec i s = .next t)
    (hj : exec j t = .next u) : execAll [i, j] s = .next u := by
  simp only [execAll, hi, hj]

/-- On an idle session a write and its echo leave one frame sent and one outcome delivered. -/
theorem execAll_write_echo {s : State} (reg value : Half) (h : Handle) (hl : s.linkUp = true)
    (hr : s.roomInQueue) (hq : s.queue = []) (hb : s.rxBuf = []) (hroom : s.roomFor 8) :
    execAll [.write reg value h, .rx (encWrFrame s.devAddr reg value)] s = .next
      { s with out := s.out ++ [.tx (encWrFrame s.devAddr reg value),
                                .resolve h (.ok value.toNat)] } := by
  have hwrite := exec_write reg value h s
  rw [submit_of_queue_nil hl hr hq] at hwrite
  rw [execAll_pair hwrite (exec_rx_echo_of_singleton _ _ _ hl hb hroom rfl rfl rfl),
    List.append_assoc, ← hq]
  rfl

/-- Settles O41: the three cases of SUBMIT for a caller, then `execAll_write_echo`; the example
frame is run. -/
theorem writeSubmitsItsFrame : Obligations.WriteSubmitsItsFrame := by
  unfold Obligations.WriteSubmitsItsFrame
  refine ⟨fun s reg value h => ?_, by decide +kernel⟩
  rw [exec_write]
  exact ⟨rfl, submit_caller_of_linkDown, submit_of_queue_nil, submit_of_busy,
    execAll_write_echo reg value h⟩

end Sys2Proof.Machine
end

section
/-! What a completing operation does, said once: `Effect` lists the shared operations an answer can be
made of, and `exec_effect` reads it off an answer. Later proofs split on it instead of on the
instructions. -/

namespace Sys2Proof.Machine

/-! The operations whose answer is a case split, case by case. -/

theorem exec_connect (addr : Byte) (s : State) :
    exec (.connect addr) s =
      if s.linkUp then .refused .connectWhileConnected else .next (openSession addr s) := rfl

theorem armUnlessOutstanding_eq (interval : Nat) (s : State) :
    armUnlessOutstanding interval s =
      { s with kaTimer := if s.kaOutstanding then s.kaTimer else some interval } := by
  by_cases hout : s.kaOutstanding = true
  · rw [armUnlessOutstanding, if_pos hout, if_pos hout]
  · rw [armUnlessOutstanding, if_neg hout, if_neg hout]

/-- KA_START with an interval, whole (R136). -/
theorem exec_kaStart_of_pos {interval : Nat} (observer : Bool) (s : State) (hpos : interval ≠ 0) :
    exec (.kaStart interval observer) s = .next
      { s with kaEnabled := true, kaInterval := interval, kaObserver := observer,
               kaTimer := if s.kaOutstanding then s.kaTimer else some interval } :=
  (if_neg hpos).trans (congrArg Host.Outcome.next (armUnlessOutstanding_eq interval _))

theorem exec_tick_of_none {s : State} (h : s.kaTimer = none) : exec .tick s = .next s := by
  change execTick s = _
  rw [execTick, h]

theorem exec_tick_of_lt {s : State} {n : Nat} (h : s.kaTimer = some n) (hn : s.cfg.tickMs < n) :
    exec .tick s = .next { s with kaTimer := some (n - s.cfg.tickMs) } := by
  have hgo : ¬ n ≤ s.cfg.tickMs := by omega
  change execTick s = _
  simp only [execTick, h, if_neg hgo]

theorem exec_tick_of_le {s : State} {n : Nat} (h : s.kaTimer = some n) (hn : n ≤ s.cfg.tickMs) :
    exec .tick s = exec .kaFire { s with kaTimer := none } := by
  change execTick s = _
  simp only [execTick, h, if_pos hn]
  rfl

/-! Submissions. -/

/-- The Commands an operation submits: the state SUBMIT then meets, and the new Command. -/
inductive Submits (s : State) : Instr → State → Command → Prop
  | read (reg : Half) (h : Handle) : Submits s (.read reg h) s
      { kind := .read, reg := reg, value := 0x0001, frame := encRdFrame s.devAddr reg,
        origin := .caller h, st := .queued }
  | write (reg value : Half) (h : Handle) : Submits s (.write reg value h) s
      { kind := .write, reg := reg, value := value, frame := encWrFrame s.devAddr reg value,
        origin := .caller h, st := .queued }
  | tick (n : Nat) (htimer : s.kaTimer = some n) (hn : n ≤ s.cfg.tickMs) :
      Submits s .tick { s with kaTimer := none, kaOutstanding := true }
      { kind := .probe, reg := s.cfg.kaReg, value := s.cfg.kaValue,
        frame := encProbeFrame s.cfg s.devAddr, origin := .keepalive, st := .queued }
  | kaFire : Submits s .kaFire { s with kaOutstanding := true }
      { kind := .probe, reg := s.cfg.kaReg, value := s.cfg.kaValue,
        frame := encProbeFrame s.cfg s.devAddr, origin := .keepalive, st := .queued }
  | submit (frame : List Byte) (kind : CmdKind) (reg value : Half) (origin : Origin) :
      Submits s (.submit frame kind reg value origin) s
      { kind := kind, reg := reg, value := value, frame := frame, origin := origin, st := .queued }

/-! Effects. -/

/-- What an operation that completes has done to the state, one case per shared operation. -/
inductive Effect (s : State) : Instr → State → Prop
  | answers (i : Instr) (r : Ret) (hi : i.port ≠ some .operation)
      (hr : ∀ f, r = .frame f → builtUnder s.cfg f) : Effect s i (answer r s)
  | receives (i : Instr) (bs : List Byte)
      (hi : i = .rx bs ∨ (i.port = some .inbound ∧ encode i = bs)) : Effect s i (receive bs s)
  | resets : Effect s .reset { State.resetUnder s.cfg with inputs := s.inputs }
  | opens (addr : Byte) (hl : s.linkUp = false) : Effect s (.connect addr) (openSession addr s)
  | closes (i : Instr) (hi : i = .disconnect ∨ i = .transportFail) : Effect s i (linkLoss s)
  | failsAtOnce (i : Instr) (s' : State) (c : Command) (hsub : Submits s i s' c)
      (hl : s.linkUp = false) : Effect s i (deliver c.origin (.err .transportUnavailable) s')
  | enqueues (i : Instr) (s' : State) (c : Command) (hsub : Submits s i s' c)
      (hl : s.linkUp = true) (hroom : s.roomInQueue) :
      Effect s i (transmit { s' with queue := s.queue ++ [c] })
  | starts (interval : Nat) (observer : Bool) (hpos : interval ≠ 0) :
      Effect s (.kaStart interval observer)
        { s with kaEnabled := true, kaInterval := interval, kaObserver := observer,
                 kaTimer := if s.kaOutstanding then s.kaTimer else some interval }
  | stops : Effect s .kaStop { s with kaEnabled := false, kaTimer := none }
  | idles (htimer : s.kaTimer = none) : Effect s .tick s
  | waits (n : Nat) (htimer : s.kaTimer = some n) (hn : s.cfg.tickMs < n) :
      Effect s .tick { s with kaTimer := some (n - s.cfg.tickMs) }
  | delivers (origin : Origin) (o : CmdOutcome) :
      Effect s (.deliver origin o) (deliver origin o s)
  | transmits : Effect s .transmit (transmit s)
  | takesMessage (m : Message) : Effect s (.onMessage m) (onMessage m s)
  | reports (o : CmdOutcome) : Effect s (.kaDone o) (kaDone o s)

/-- A submission is SUBMIT of its Command at the state it has prepared. -/
theorem exec_of_submits {i : Instr} {s s' : State} {c : Command} (h : Submits s i s' c) :
    exec i s = submit c.frame c.kind c.reg c.value c.origin s' := by
  cases h with
  | tick n htimer hn => exact exec_tick_of_le htimer hn
  | _ => rfl

/-- Before SUBMIT only the keepalive's timer and flag have been written. -/
theorem Submits.prepared {i : Instr} {s s' : State} {c : Command} (h : Submits s i s' c) :
    ∃ timer outstanding, s' = { s with kaTimer := timer, kaOutstanding := outstanding } := by
  cases h <;> exact ⟨_, _, rfl⟩

/-- The Command submitted is new. -/
theorem Submits.queued {i : Instr} {s s' : State} {c : Command} (h : Submits s i s' c) :
    c.st = .queued := by
  cases h <;> rfl

theorem effect_of_submits {i : Instr} {s s' t : State} {c : Command} (h : Submits s i s' c)
    (he : exec i s = .next t) : Effect s i t := by
  obtain ⟨timer, outstanding, hs'⟩ := h.prepared
  rw [exec_of_submits h] at he
  rcases submit_cases c.frame c.kind c.reg c.value c.origin s' with
    ⟨hl, hs⟩ | ⟨-, -, hs⟩ | ⟨hl, hroom, hs⟩
  · rw [hs] at he
    cases he
    exact .failsAtOnce i s' c h (by rw [hs'] at hl; exact hl)
  · rw [hs] at he
    cases he
  · rw [hs, ← h.queued] at he
    cases he
    subst hs'
    exact .enqueues i _ c h hl hroom

/-- TICK that completes: no wait, a wait that goes on, or a wait that ends. -/
theorem effect_tick {s t : State} (h : exec .tick s = .next t) : Effect s .tick t := by
  cases htimer : s.kaTimer with
  | none =>
    rw [exec_tick_of_none htimer] at h
    cases h
    exact .idles htimer
  | some n =>
    by_cases hn : n ≤ s.cfg.tickMs
    · exact effect_of_submits (.tick n htimer hn) h
    · rw [exec_tick_of_lt htimer (Nat.lt_of_not_le hn)] at h
      cases h
      exact .waits n htimer (Nat.lt_of_not_le hn)

/-- What an operation that completes has done (one case per shared operation). -/
theorem exec_effect {i : Instr} {s t : State} (h : exec i s = .next t) : Effect s i t := by
  have hbuilt {f g : List Byte} (hg : builtUnder s.cfg g) (hf : Ret.frame g = .frame f) :
      builtUnder s.cfg f := by cases hf; exact hg
  cases i with
  | rdreq addr reg | encRd addr reg =>
    cases h
    exact .answers _ _ nofun fun f => hbuilt (.inl ⟨_, _, rfl⟩)
  | wrreq addr reg value | encWr addr reg value =>
    cases h
    exact .answers _ _ nofun fun f => hbuilt (.inr (.inl ⟨_, _, _, rfl⟩))
  | probe addr func reg value | encProbe addr =>
    cases h
    exact .answers _ _ nofun fun f => hbuilt (.inr (.inr ⟨_, rfl⟩))
  | crc bytes =>
    cases h
    exact .answers _ _ nofun nofun
  | decode buf =>
    cases h
    refine .answers _ _ nofun fun f hf => ?_
    cases hd : decodeFrame buf <;> rw [hd] at hf <;> cases hf
  | rdrsp addr data crc | wrrsp addr reg value crc =>
    cases h
    exact .receives _ _ (.inr ⟨rfl, rfl⟩)
  | rx chunk =>
    cases h
    exact .receives _ _ (.inl rfl)
  | reset => cases h; exact .resets
  | connect addr =>
    cases hl : s.linkUp with
    | true => rw [exec_connect, hl] at h; cases h
    | false =>
      rw [exec_connect, hl] at h
      cases h
      exact .opens addr hl
  | disconnect => cases h; exact .closes _ (.inl rfl)
  | transportFail => cases h; exact .closes _ (.inr rfl)
  | read reg hd => exact effect_of_submits (.read reg hd) h
  | write reg value hd => exact effect_of_submits (.write reg value hd) h
  | submit frame kind reg value origin =>
    exact effect_of_submits (.submit frame kind reg value origin) h
  | kaFire => exact effect_of_submits .kaFire h
  | tick => exact effect_tick h
  | kaStart interval observer =>
    by_cases hpos : interval = 0
    · rw [hpos] at h
      cases h
    · rw [exec_kaStart_of_pos observer s hpos] at h
      cases h
      exact .starts interval observer hpos
  | kaStop => cases h; exact .stops
  | deliver origin o => cases h; exact .delivers origin o
  | transmit => cases h; exact .transmits
  | onMessage m => cases h; exact .takesMessage m
  | kaDone o => cases h; exact .reports o

end Sys2Proof.Machine
end

section
/-! The Pending Queue between two operations (spec/10_state.md R18): what the queue invariant says of
its shape, and that ON_MESSAGE and SUBMIT keep it (R119, R121). -/

namespace Sys2Proof.Machine

/-- Empty, or one Command in flight in front of queued ones, in a session (R18). -/
theorem queueInv_iff (s : State) :
    s.QueueInv ↔ s.queue = [] ∨ (s.linkUp = true ∧ ∃ c rest, s.queue = c :: rest ∧
      c.st = .inFlight ∧ ∀ d ∈ rest, d.st = .queued) := by
  cases hq : s.queue with
  | nil => simp [State.QueueInv, hq]
  | cons c rest =>
    simp only [State.QueueInv, hq, List.head?_cons, List.tail_cons, Option.mem_def,
      Option.some.injEq, forall_eq', reduceCtorEq, false_or, List.cons.injEq]
    constructor
    · rintro ⟨-, hlink, hhead, htail, -⟩
      exact ⟨hlink (List.cons_ne_nil _ _), c, rest, ⟨rfl, rfl⟩, hhead, htail⟩
    · rintro ⟨hlink, c, rest, ⟨rfl, rfl⟩, hhead, htail⟩
      have hone : rest.filter Command.inFlight = [] :=
        List.filter_eq_nil_iff.2 fun d hd => by simp [Command.inFlight, htail d hd]
      simp [hlink, hhead, Command.inFlight, hone]
      exact htail

theorem queue_nil_of_linkDown {s : State} (h : s.QueueInv) (hl : s.linkUp = false) :
    s.queue = [] := by
  obtain ⟨-, -, -, -, hdown⟩ := h
  exact hdown hl

/-- With no Command in flight TRANSMIT sends the head, if there is one (R119). -/
theorem transmit_promotes {s : State} (h : ∀ d ∈ s.queue, d.st = .queued) :
    transmit s = { s with
      queue := promoteHead s.queue
      out := s.out ++ s.queue.head?.toList.map fun d => .tx d.frame } := by
  cases hq : s.queue with
  | nil =>
    rw [transmit_of_none_queued (by simp [hq])]
    change s = { s with queue := [], out := s.out ++ [] }
    rw [List.append_nil, ← hq]
  | cons c rest =>
    rw [transmit_of_all_queued hq h]
    rfl

/-- A Message for the head in flight: its outcome, then the gate (R121). -/
theorem onMessage_of_cons {s : State} {c : Command} {rest : List Command} (m : Message)
    (hq : s.queue = c :: rest) (hc : c.st = .inFlight) :
    onMessage m s = transmit (deliver c.origin (.ok m.value) { s with queue := rest }) := by
  have htake : takeInFlight s.queue = some (c, rest) := by rw [hq, takeInFlight, if_pos hc]
  simp only [onMessage, htake]

/-- A Message that finds no Command is logged (R122). -/
theorem onMessage_of_none_inFlight {s : State} (m : Message) (h : ∀ d ∈ s.queue, d.st ≠ .inFlight) :
    onMessage m s = emit (.log (.unsolicited m)) s := by
  rw [onMessage, (takeInFlight_eq_none _).2 h]

/-- TRANSMIT establishes the queue invariant where nothing is in flight. -/
theorem queueInv_transmit {s : State} (h : ∀ d ∈ s.queue, d.st = .queued)
    (hl : s.queue ≠ [] → s.linkUp = true) : (transmit s).QueueInv := by
  rw [transmit_promotes h, queueInv_iff]
  cases hq : s.queue with
  | nil => exact .inl rfl
  | cons c rest =>
    rw [hq] at h
    exact .inr ⟨hl (by simp [hq]), _, rest, rfl, rfl, fun d hd => h d (List.mem_cons_of_mem _ hd)⟩

theorem queueInv_onMessage {s : State} (m : Message) (h : s.QueueInv) : (onMessage m s).QueueInv := by
  have hinv := h
  rw [queueInv_iff] at h
  obtain hq | ⟨hl, c, rest, hq, hc, hrest⟩ := h
  · rw [onMessage_of_none_inFlight m (by simp [hq])]
    exact hinv
  · rw [onMessage_of_cons m hq hc]
    exact queueInv_transmit (by simpa using hrest) (by simp [hl])

/-- A new Command at the back, and the gate: behind a Command in flight it waits, else it is sent. -/
theorem queueInv_enqueue {s : State} {c : Command} (h : s.QueueInv) (hl : s.linkUp = true)
    (hc : c.st = .queued) : (transmit { s with queue := s.queue ++ [c] }).QueueInv := by
  rw [queueInv_iff] at h
  obtain hq | ⟨-, d, rest, hq, hd, hrest⟩ := h
  · exact queueInv_transmit (by simp [hq, hc]) fun _ => hl
  · rw [transmit_of_busy ((busy_eq_true _).2 ⟨d, by simp [hq], hd⟩), queueInv_iff]
    exact .inr ⟨hl, d, rest ++ [c], by simp [hq], hd, by
      simpa [or_imp, forall_and, hc] using hrest⟩

end Sys2Proof.Machine
end

section
/-! Outcomes come in submission order (spec/20_memory.md section 9): the handles resolved, followed by
the pending ones, as one list that no shared operation but SUBMIT extends. -/

namespace Sys2Proof.Machine

/-- The handles resolved so far, then the pending ones. -/
def handleTrace (s : State) : List Handle := resolvedHandles s.out ++ pendingHandles s.queue

/-- The handle an origin carries, if it is a caller's. -/
def originHandles : Origin → List Handle
  | .caller h => [h]
  | .keepalive => []

theorem resolvedHandles_append (a b : List OutEvent) :
    resolvedHandles (a ++ b) = resolvedHandles a ++ resolvedHandles b :=
  List.filterMap_append ..

theorem pendingHandles_append (a b : List Command) :
    pendingHandles (a ++ b) = pendingHandles a ++ pendingHandles b :=
  List.filterMap_append ..

theorem pendingHandles_cons (c : Command) (q : List Command) :
    pendingHandles (c :: q) = originHandles c.origin ++ pendingHandles q := by
  cases hc : c.origin <;> simp [pendingHandles, originHandles, hc]

/-- DELIVER resolves the handle it is given, and no other (R118). -/
theorem resolvedHandles_deliver (g : Origin) (o : CmdOutcome) (s : State) :
    resolvedHandles (deliver g o s).out = resolvedHandles s.out ++ originHandles g := by
  cases g with
  | caller h => rw [deliver, emit_out, resolvedHandles_append]; rfl
  | keepalive =>
    rw [deliver, kaDone_out]
    split
    · rw [resolvedHandles_append]; rfl
    · rw [originHandles, List.append_nil]

theorem handleTrace_transmit (s : State) : handleTrace (transmit s) = handleTrace s := by
  cases hb : s.busy with
  | true => rw [transmit_of_busy hb]
  | false =>
    rw [transmit_promotes ((busy_eq_false s).1 hb)]
    cases hq : s.queue with
    | nil => simp [handleTrace, promoteHead, hq]
    | cons c rest =>
      have htx (f : List Byte) : resolvedHandles [.tx f] = [] := rfl
      simp [handleTrace, promoteHead, hq, resolvedHandles_append, pendingHandles_cons, htx]

/-- Under the queue invariant the Command resolved is the oldest pending one. -/
theorem handleTrace_onMessage {s : State} (m : Message) (h : s.QueueInv) :
    handleTrace (onMessage m s) = handleTrace s := by
  rw [queueInv_iff] at h
  obtain hq | ⟨-, c, rest, hq, hc, -⟩ := h
  · rw [onMessage_of_none_inFlight m (by simp [hq]), handleTrace, emit_out, emit_queue,
      resolvedHandles_append]
    exact congrArg (· ++ _) (List.append_nil _)
  · rw [onMessage_of_cons m hq hc, handleTrace_transmit, handleTrace, resolvedHandles_deliver,
      deliver_queue, List.append_assoc, ← pendingHandles_cons, ← hq, handleTrace]

theorem handleTrace_drain {s : State} (h : s.QueueInv) : handleTrace (drain s) = handleTrace s := by
  refine (drain_induction (P := fun u => u.QueueInv ∧ handleTrace u = handleTrace s)
    (fun u len hu _ => ?_) (fun u m len hu _ => ?_) s ⟨h, rfl⟩).2
  · obtain ⟨hinv, htrace⟩ := hu
    refine ⟨hinv, htrace ▸ ?_⟩
    rw [handleTrace, resolvedHandles_append]
    exact congrArg (· ++ _) (List.append_nil _)
  · obtain ⟨hinv, htrace⟩ := hu
    have hmsg := handleTrace_onMessage (s := { u with rxBuf := u.rxBuf.drop len }) m hinv
    exact ⟨queueInv_onMessage m hinv, hmsg.trans htrace⟩

theorem handleTrace_receive {s : State} (bs : List Byte) (h : s.QueueInv) :
    handleTrace (receive bs s) = handleTrace s := by
  rcases receive_cases bs s with ⟨-, hr⟩ | ⟨-, -, hr⟩ | ⟨-, -, hr⟩ <;> rw [hr]
  · rfl
  · exact handleTrace_drain (s := { s with rxBuf := s.rxBuf ++ bs }) h

/-- A list of deliveries resolves its Commands' handles in the list's order (R126). -/
theorem resolvedHandles_deliverAll (o : CmdOutcome) (q : List Command) (s : State) :
    resolvedHandles (deliverAll o q s).out = resolvedHandles s.out ++ pendingHandles q := by
  induction q generalizing s with
  | nil => exact (List.append_nil _).symm
  | cons c q ih =>
    rw [deliverAll, ih, resolvedHandles_deliver, pendingHandles_cons, List.append_assoc]

theorem handleTrace_linkLoss (s : State) : handleTrace (linkLoss s) = handleTrace s := by
  rw [linkLoss]
  split
  · rfl
  · rw [handleTrace, resolvedHandles_deliverAll, deliverAll_queue]
    exact List.append_nil _

/-- Only the operation port hands in handles. -/
theorem newHandles_of_port_ne {i : Instr} (h : i.port ≠ some .operation) : newHandles i = [] := by
  cases i with
  | read | write => exact absurd rfl h
  | _ => rfl

/-- A submission from outside submits the handle that is handed in. -/
theorem Submits.handles {i : Instr} {s s' : State} {c : Command} (h : Submits s i s' c)
    (hi : i.fromOutside = true) : originHandles c.origin = newHandles i := by
  cases h with
  | kaFire | submit => cases hi
  | _ => rfl

/-- What has been resolved and what is pending grow by the handle handed in. -/
theorem handleTrace_effect {i : Instr} {s t : State} (hinv : s.QueueInv)
    (hi : i.fromOutside = true) (hreset : i ≠ .reset) (he : Effect s i t) :
    handleTrace t = handleTrace s ++ newHandles i := by
  cases he with
  | answers i r hport hr => rw [newHandles_of_port_ne hport, List.append_nil]; rfl
  | receives i bs hbs =>
    have hnew : newHandles i = [] := by
      obtain rfl | ⟨hport, -⟩ := hbs
      · rfl
      · exact newHandles_of_port_ne (by simp [hport])
    rw [handleTrace_receive bs hinv, hnew, List.append_nil]
  | resets => exact absurd rfl hreset
  | closes i hclose =>
    obtain rfl | rfl := hclose <;> exact (handleTrace_linkLoss s).trans (List.append_nil _).symm
  | failsAtOnce i s' c hsub hl =>
    obtain ⟨timer, outstanding, rfl⟩ := hsub.prepared
    rw [handleTrace, handleTrace, resolvedHandles_deliver, deliver_queue, hsub.handles hi]
    simp [queue_nil_of_linkDown hinv hl, pendingHandles]
  | enqueues i s' c hsub hl hroom =>
    obtain ⟨timer, outstanding, rfl⟩ := hsub.prepared
    rw [handleTrace_transmit, handleTrace, handleTrace, pendingHandles_append, pendingHandles_cons,
      hsub.handles hi]
    simp [pendingHandles]
  | delivers | transmits | takesMessage | reports => cases hi
  | opens | starts | stops | idles | waits => exact (List.append_nil _).symm

/-- Settles O47, by `handleTrace`: each shared operation keeps the list, SUBMIT extends it. -/
theorem outcomesComeInSubmissionOrder : Obligations.OutcomesComeInSubmissionOrder := by
  unfold Obligations.OutcomesComeInSubmissionOrder
  intro i s t hinv hi hreset he
  exact handleTrace_effect hinv hi hreset (exec_effect he)

end Sys2Proof.Machine
end

section
/-! Frames go out in submission order, and they balance the responses (spec/20_memory.md section 9,
spec/43_correlator.md section 2): what TRANSMIT, DELIVER and ON_MESSAGE do to the frames sent and
queued, to the count in flight and to the `Ok` outcomes. -/

namespace Sys2Proof.Machine

/-! The frames sent so far, then the queued ones. -/

def frameTrace (s : State) : List (List Byte) := txFrames s.out ++ queuedFrames s.queue

@[simp] theorem txFrames_append (a b : List OutEvent) :
    txFrames (a ++ b) = txFrames a ++ txFrames b :=
  List.filterMap_append ..

@[simp] theorem queuedFrames_append (a b : List Command) :
    queuedFrames (a ++ b) = queuedFrames a ++ queuedFrames b := by
  simp [queuedFrames]

@[simp] theorem queuedFrames_cons (c : Command) (q : List Command) :
    queuedFrames (c :: q) = (if c.st = .queued then [c.frame] else []) ++ queuedFrames q := by
  by_cases h : c.st = .queued <;> simp [queuedFrames, h]

@[simp] theorem txFrames_tx (f : List Byte) : txFrames [.tx f] = [f] := rfl

/-- DELIVER transmits nothing (R118). -/
@[simp] theorem txFrames_deliver (g : Origin) (o : CmdOutcome) (s : State) :
    txFrames (deliver g o s).out = txFrames s.out := by
  cases g with
  | caller h => simp [deliver, txFrames]
  | keepalive => cases hobs : s.kaObserver <;> simp [deliver, hobs, txFrames]

theorem frameTrace_transmit (s : State) : frameTrace (transmit s) = frameTrace s := by
  cases hb : s.busy with
  | true => rw [transmit_of_busy hb]
  | false =>
    have hall := (busy_eq_false s).1 hb
    rw [transmit_promotes hall]
    cases hq : s.queue with
    | nil => simp [frameTrace, promoteHead, hq]
    | cons c rest =>
      have hc : c.st = .queued := hall c (by simp [hq])
      simp [frameTrace, promoteHead, hq, hc]

/-- The Command resolved is not a queued one, so the frames stay as they are. -/
theorem frameTrace_onMessage (m : Message) (s : State) : frameTrace (onMessage m s) = frameTrace s := by
  rcases onMessage_cases m s with ⟨before, c, after, hq, -, hc, hm⟩ | ⟨-, hm⟩
  · rw [hm, frameTrace_transmit, frameTrace, txFrames_deliver, deliver_queue, frameTrace, hq]
    simp [hc]
  · rw [hm, frameTrace, frameTrace, emit_queue, emit_out, txFrames_append]
    simp [txFrames]

theorem frameTrace_drain (s : State) : frameTrace (drain s) = frameTrace s := by
  refine drain_induction (P := fun u => frameTrace u = frameTrace s)
    (fun u len hu _ => ?_) (fun u m len hu _ => ?_) s rfl
  · rw [← hu, frameTrace, frameTrace, txFrames_append]
    simp [txFrames]
  · rw [frameTrace_onMessage, ← hu]
    rfl

theorem frameTrace_receive (bs : List Byte) (s : State) :
    frameTrace (receive bs s) = frameTrace s := by
  rcases receive_cases bs s with ⟨-, hr⟩ | ⟨-, -, hr⟩ | ⟨-, -, hr⟩ <;> rw [hr]
  · rfl
  · rw [frameTrace_drain]
    rfl

theorem newFrames_of_linkDown (i : Instr) {s : State} (hl : s.linkUp = false) :
    newFrames i s = [] := by
  simp [newFrames, hl]

/-- Only the operation port adds frames. -/
theorem newFrames_of_port_ne {i : Instr} (s : State) (h : i.port ≠ some .operation) :
    newFrames i s = [] := by
  cases hl : s.linkUp with
  | false => exact newFrames_of_linkDown i hl
  | true =>
    cases i with
    | read | write | tick => exact absurd rfl h
    | _ => simp [newFrames]

/-- A submission from outside submits the frame that `newFrames` names. -/
theorem Submits.frames {i : Instr} {s s' : State} {c : Command} (h : Submits s i s' c)
    (hi : i.fromOutside = true) (hl : s.linkUp = true) : newFrames i s = [c.frame] := by
  cases h with
  | kaFire | submit => cases hi
  | read | write => simp [newFrames, hl]
  | tick n htimer hn => simp [newFrames, hl, htimer, hn]

/-- What has been sent and what is queued grow by the frame submitted. -/
theorem frameTrace_effect {i : Instr} {s t : State} (hi : i.fromOutside = true)
    (hend : endsSession i = false) (he : Effect s i t) :
    frameTrace t = frameTrace s ++ newFrames i s := by
  cases he with
  | answers i r hport hr => rw [newFrames_of_port_ne s hport, List.append_nil]; rfl
  | receives i bs hbs =>
    have hnew : newFrames i s = [] := by
      obtain rfl | ⟨hport, -⟩ := hbs
      · simp [newFrames]
      · exact newFrames_of_port_ne s (by simp [hport])
    rw [frameTrace_receive, hnew, List.append_nil]
  | resets => cases hend
  | closes i hclose => obtain rfl | rfl := hclose <;> cases hend
  | opens addr hl => rw [newFrames_of_linkDown _ hl, List.append_nil]; rfl
  | failsAtOnce i s' c hsub hl =>
    obtain ⟨timer, outstanding, rfl⟩ := hsub.prepared
    rw [newFrames_of_linkDown i hl, frameTrace, txFrames_deliver, deliver_queue, List.append_nil,
      frameTrace]
  | enqueues i s' c hsub hl hroom =>
    obtain ⟨timer, outstanding, rfl⟩ := hsub.prepared
    rw [frameTrace_transmit, hsub.frames hi hl, frameTrace, frameTrace]
    simp [hsub.queued, queuedFrames]
  | delivers | transmits | takesMessage | reports => cases hi
  | starts | stops => simp [newFrames, frameTrace]
  | idles htimer => simp [newFrames, htimer]
  | waits n htimer hn =>
    have hwait : ¬ n ≤ s.cfg.tickMs := by omega
    simp [newFrames, frameTrace, htimer, hwait]

/-- Settles O48, by `frameTrace`: each shared operation keeps the list, SUBMIT extends it. -/
theorem framesGoOutInSubmissionOrder : Obligations.FramesGoOutInSubmissionOrder := by
  unfold Obligations.FramesGoOutInSubmissionOrder
  intro i s t hi hend he
  exact frameTrace_effect hi hend (exec_effect he)

/-! The balance: frames sent, less Commands in flight, less `Ok` outcomes. -/

def gateBalance (s : State) : Int :=
  (txFrames s.out).length - inFlightCount s.queue - okCount s.out

@[simp] theorem okCount_append (a b : List OutEvent) : okCount (a ++ b) = okCount a + okCount b := by
  simp [okCount]

@[simp] theorem inFlightCount_nil : inFlightCount [] = 0 := rfl

@[simp] theorem inFlightCount_append (a b : List Command) :
    inFlightCount (a ++ b) = inFlightCount a + inFlightCount b := by
  simp [inFlightCount]

@[simp] theorem inFlightCount_cons (c : Command) (q : List Command) :
    inFlightCount (c :: q) = (if c.st = .inFlight then 1 else 0) + inFlightCount q := by
  by_cases h : c.st = .inFlight <;> simp [inFlightCount, Command.inFlight, h, Nat.add_comm]

/-- With an observer every `Ok` delivered leaves the block (R118, R140). -/
theorem okCount_deliver_ok (g : Origin) (v : Nat) {s : State} (hobs : s.kaObserver = true) :
    okCount (deliver g (.ok v) s).out = okCount s.out + 1 := by
  cases g with
  | caller h => rw [deliver, emit_out, okCount_append]; rfl
  | keepalive => rw [deliver, kaDone_out, if_pos hobs, okCount_append]; rfl

theorem okCount_deliver_err (g : Origin) (e : ErrCode) (s : State) :
    okCount (deliver g (.err e) s).out = okCount s.out := by
  cases g with
  | caller h => rw [deliver, emit_out, okCount_append]; rfl
  | keepalive =>
    rw [deliver, kaDone_out]
    split
    · rw [okCount_append]; rfl
    · rfl

/-- One frame more sent is one Command more in flight. -/
theorem gateBalance_transmit (s : State) : gateBalance (transmit s) = gateBalance s := by
  cases hb : s.busy with
  | true => rw [transmit_of_busy hb]
  | false =>
    have hall := (busy_eq_false s).1 hb
    rw [transmit_promotes hall]
    cases hq : s.queue with
    | nil => simp [gateBalance, promoteHead, hq]
    | cons c rest =>
      have hc : c.st = .queued := hall c (by simp [hq])
      have hok (f : List Byte) : okCount [.tx f] = 0 := rfl
      simp only [gateBalance, promoteHead, hq, hc, txFrames_tx, hok, List.head?_cons, Option.toList_some,
        List.map_cons, List.map_nil, txFrames_append, okCount_append, inFlightCount_cons,
        List.length_append, List.length_singleton, reduceCtorEq, if_true, if_false]
      omega

/-- One `Ok` more delivered is one Command fewer in flight. -/
theorem gateBalance_onMessage (m : Message) {s : State} (hobs : s.kaObserver = true) :
    gateBalance (onMessage m s) = gateBalance s := by
  rcases onMessage_cases m s with ⟨before, c, after, hq, -, hc, hm⟩ | ⟨-, hm⟩
  · rw [hm, gateBalance_transmit, gateBalance, txFrames_deliver, deliver_queue,
      okCount_deliver_ok c.origin m.value (s := { s with queue := before ++ after }) hobs,
      gateBalance, hq]
    simp only [inFlightCount_append, inFlightCount_cons, hc, if_true]
    omega
  · rw [hm, gateBalance, emit_out, emit_queue]
    simp [gateBalance, txFrames, okCount, OutEvent.outcome?]

theorem gateBalance_drain {s : State} (hobs : s.kaObserver = true) :
    gateBalance (drain s) = gateBalance s := by
  refine (drain_induction (P := fun u => u.kaObserver = true ∧ gateBalance u = gateBalance s)
    (fun u len hu _ => ?_) (fun u m len hu _ => ?_) s ⟨hobs, rfl⟩).2
  · obtain ⟨hobs, hbal⟩ := hu
    refine ⟨hobs, hbal ▸ ?_⟩
    simp [gateBalance, txFrames, okCount, OutEvent.outcome?]
  · obtain ⟨hobs, hbal⟩ := hu
    exact ⟨by simpa using hobs,
      (gateBalance_onMessage (s := { u with rxBuf := u.rxBuf.drop len }) m hobs).trans hbal⟩

theorem gateBalance_receive {s : State} (bs : List Byte) (hobs : s.kaObserver = true) :
    gateBalance (receive bs s) = gateBalance s := by
  rcases receive_cases bs s with ⟨-, hr⟩ | ⟨-, -, hr⟩ | ⟨-, -, hr⟩ <;> rw [hr]
  · rfl
  · exact gateBalance_drain (s := { s with rxBuf := s.rxBuf ++ bs }) hobs

theorem gateBalance_effect {i : Instr} {s t : State} (hobs : s.kaObserver = true)
    (hi : i.fromOutside = true) (hend : endsSession i = false) (he : Effect s i t) :
    gateBalance t = gateBalance s := by
  cases he with
  | receives i bs hbs => exact gateBalance_receive bs hobs
  | resets => cases hend
  | closes i hclose => obtain rfl | rfl := hclose <;> cases hend
  | failsAtOnce i s' c hsub hl =>
    obtain ⟨timer, outstanding, rfl⟩ := hsub.prepared
    rw [gateBalance, txFrames_deliver, okCount_deliver_err, deliver_queue, gateBalance]
  | enqueues i s' c hsub hl hroom =>
    obtain ⟨timer, outstanding, rfl⟩ := hsub.prepared
    rw [gateBalance_transmit, gateBalance, gateBalance]
    simp [hsub.queued]
  | delivers | transmits | takesMessage | reports => cases hi
  | answers | opens | starts | stops | idles | waits => rfl

/-- Settles O49: the balance is kept, which in numbers without subtraction is the statement. -/
theorem transmissionsBalanceResponses : Obligations.TransmissionsBalanceResponses := by
  unfold Obligations.TransmissionsBalanceResponses
  intro i s t hobs hi hend he
  have hbal := gateBalance_effect hobs hi hend (exec_effect he)
  simp only [gateBalance] at hbal
  omega

end Sys2Proof.Machine
end

section
/-! What the spec derives of the CRC engine (spec/40_crc.md, properties b to e): the residue, the
composition, linearity and the table form. -/

namespace Sys2Proof.Machine

/-- The accumulator of a concatenation goes on from that of its first part (property c). -/
theorem crcAcc_append (s t : List Byte) : crcAcc (s ++ t) = t.foldl crcByte (crcAcc s) :=
  List.foldl_append

/-- The low byte shifts the high byte down, the high byte then shifts it out (property b). -/
theorem crcAcc_append_crcAcc (body : List Byte) :
    crcAcc (body ++ [lo8 (crcAcc body), hi8 (crcAcc body)]) = 0x0000 := by
  generalize ha : crcAcc body = a
  have hlow : crcByte a (lo8 a) = join 0 (hi8 a) := crcByte_lo8 a
  have hhigh : crcByte (join 0 (hi8 a)) (hi8 a) = join 0 0 := by
    simpa using crcByte_lo8 (join 0 (hi8 a))
  rw [crcAcc_append, ha, List.foldl_cons, List.foldl_cons, hlow, hhigh]
  rfl

/-- Settles O14: `crcAcc_append_crcAcc` and `crcAcc_append`. -/
theorem crcResidueVanishes : Obligations.CrcResidueVanishes := by
  unfold Obligations.CrcResidueVanishes
  exact ⟨crcAcc_append_crcAcc, crcAcc_append⟩

/-- Any number of iterations is linear, since one is (property d). -/
theorem crcBit_iterate_xor (n : Nat) (x y : Half) :
    crcBit^[n] (x ^^^ y) = crcBit^[n] x ^^^ crcBit^[n] y := by
  induction n generalizing x y with
  | zero => rfl
  | succ n ih => simp only [Function.iterate_succ_apply, crcBit_xor, ih]

theorem join_eq_xor (x y : Byte) : join x y = join x 0 ^^^ join 0 y := by
  rw [← zeroExtend_eq_join, join_xor_zeroExtend]
  exact congrArg (join x) BitVec.zero_xor.symm

theorem zeroExtend_hi8 (a : Half) : (hi8 a).zeroExtend 16 = a >>> 8 := by
  apply BitVec.eq_of_getLsbD_eq
  intro i hi
  rw [BitVec.getLsbD_setWidth, hi8_getLsbD, BitVec.getLsbD_ushiftRight]
  by_cases h : i < 8
  · simp [h, hi]
  · simp [h, BitVec.getLsbD_of_ge a (8 + i) (by omega)]

/-- The high byte only shifts, the low byte goes through the table (property e). -/
theorem crcByte_eq_table (a : Half) (b : Byte) :
    crcByte a b = (a >>> 8) ^^^ crcBit^[8] ((lo8 (a ^^^ b.zeroExtend 16)).zeroExtend 16) := by
  have hlow : lo8 (a ^^^ b.zeroExtend 16) = lo8 a ^^^ b := by
    rw [← join_hi8_lo8 a, join_xor_zeroExtend, lo8_join, lo8_join]
  rw [crcByte_eq_iterate_join, join_eq_xor, crcBit_iterate_xor, crcBit_iterate_high, zeroExtend_hi8,
    hlow, zeroExtend_eq_join]

/-- Settles O15: `crcBit_iterate_xor` and `crcByte_eq_table`; the six table values are run. -/
theorem crcHasTableForm : Obligations.CrcHasTableForm := by
  unfold Obligations.CrcHasTableForm
  exact ⟨crcBit_iterate_xor 8, crcByte_eq_table, by decide +kernel⟩

end Sys2Proof.Machine
end

section
/-! The codec's frames (spec/41_codec.md section 1): a frame with its own CRC verifies, and the probe
is built from the configuration. -/

namespace Sys2Proof.Machine

/-- A body with its own CRC accumulates to zero (R93). -/
theorem crcAcc_withCrc (body : List Byte) : crcAcc (withCrc body) = 0x0000 := by
  rw [withCrc, halfBytes, hi8_computeCRC, lo8_computeCRC]
  exact crcAcc_append_crcAcc body

theorem buildFrame_take_six (addr func : Byte) (reg value : Half) :
    (buildFrame addr func reg value).take 6 =
      [addr, func, hi8 reg, lo8 reg, hi8 value, lo8 value] := by
  rw [buildFrame_eq]
  rfl

theorem buildFrame_eq_withCrc_take (addr func : Byte) (reg value : Half) :
    buildFrame addr func reg value = withCrc ((buildFrame addr func reg value).take 6) := by
  rw [buildFrame_take_six]
  rfl

/-- The two bytes that end a built frame are the CRC over the six before them. -/
theorem computeCRC_buildFrame (addr func : Byte) (reg value : Half) :
    let f := buildFrame addr func reg value
    computeCRC (f.take 6) = join (byteAt f 6) (byteAt f 7) := by
  intro f
  rw [buildFrame_take_six, show f = _ from buildFrame_eq addr func reg value]
  exact (join_hi8_lo8 _).symm

/-- Settles O21: the layout is `buildFrame_eq`, the accumulator `crcAcc_withCrc`. -/
theorem encodedFramesVerify : Obligations.EncodedFramesVerify := by
  unfold Obligations.EncodedFramesVerify
  intro addr func reg value f
  have hlayout : f = _ := buildFrame_eq addr func reg value
  refine ⟨by rw [hlayout]; rfl, by rw [hlayout]; rfl, computeCRC_buildFrame .., crcAcc_withCrc _⟩

/-- Settles O20: the layout is `buildFrame_take_six`; the default probe is run. -/
theorem probeFollowsConfiguration : Obligations.ProbeFollowsConfiguration := by
  unfold Obligations.ProbeFollowsConfiguration
  refine ⟨fun c addr => ⟨?_, ?_⟩, fun addr => ?_, by decide +kernel⟩
  · exact buildFrame_take_six ..
  · exact buildFrame_eq_withCrc_take ..
  · rfl

end Sys2Proof.Machine
end

section
/-! DECODE over what arrives (spec/41_codec.md section 2): when it waits, what it compares, the value
of a read response, and that later bytes do not change a decided frame. -/

namespace Sys2Proof.Machine

/-! When it waits (R95, R97), and what it compares (R96). -/

/-- Settles O22: the length rule, whole, read for the lengths that do not fit the buffer. -/
theorem decodeWaitsExactlyWhenIncomplete : Obligations.DecodeWaitsExactlyWhenIncomplete := by
  unfold Obligations.DecodeWaitsExactlyWhenIncomplete
  intro buf
  have hone : ¬ (byteAt buf 1 = 0x03 ∧ byteAt buf 1 = 0x06) := by
    rintro ⟨h3, h6⟩
    rw [h3] at h6
    exact absurd h6 (by decide)
  simp only [decodeFrame_needMoreBytes, frameLength_eq_some, Ne]
  generalize (byteAt buf 1 = 0x06) = write at *
  generalize (byteAt buf 1 = 0x03) = read at *
  by_cases hw : write
  · have hr : ¬ read := fun hr => hone ⟨hr, hw⟩
    simp [hw, hr]
    omega
  · by_cases hr : read
    · simp only [hw, hr, false_and, true_and, not_true, not_false_eq_true, and_true, false_or]
      constructor
      · intro hwait
        by_contra hfit
        have := hwait (3 + (byteAt buf 2).toNat + 2) ⟨by omega, by omega, rfl⟩
        omega
      · rintro hshort len ⟨-, -, hlen⟩
        omega
    · simp [hw, hr]

/-- Settles O23: `decodeFrame_of_complete` in the two outcomes of the comparison. -/
theorem decodeComparesTheWholeCrc : Obligations.DecodeComparesTheWholeCrc := by
  unfold Obligations.DecodeComparesTheWholeCrc
  refine ⟨fun buf len hmin hlen hfit => ?_, by decide +kernel⟩
  have hframe : frameLength buf = some len := (frameLength_eq_some buf len).2 ⟨hmin, hlen⟩
  rw [decodeFrame_of_complete buf len hframe hfit]
  refine ⟨fun hne => if_pos hne, fun heq => ⟨_, if_neg (not_not_intro heq), rfl⟩⟩

/-! The value of a read response (R98). -/

theorem be_append_singleton (s : List Byte) (b : Byte) : be (s ++ [b]) = be s * 256 + b.toNat :=
  List.foldl_concat ..

theorem be_lt (data : List Byte) : be data < 256 ^ data.length := by
  induction data using List.reverseRecOn with
  | nil => simp
  | append_singleton s b ih =>
    have hb : b.toNat < 256 := b.isLt
    rw [be_append_singleton, List.length_append, List.length_singleton, Nat.pow_succ]
    omega

/-- The value of a read response is the number of its data (R98). -/
theorem frameValue_of_read (addr : Byte) (data rest : List Byte) (hlen : data.length ≤ 255) :
    frameValue ([addr, 0x03, BitVec.ofNat 8 data.length] ++ data ++ rest) = be data := by
  have hcount : (BitVec.ofNat 8 data.length).toNat = data.length := by
    rw [BitVec.toNat_ofNat]
    omega
  simp [frameValue, memRead, slice, byteAt, hcount, Nat.add_comm 3]

theorem frameLength_of_read (addr : Byte) (data rest : List Byte) (hlen : data.length ≤ 255) :
    frameLength ([addr, 0x03, BitVec.ofNat 8 data.length] ++ data ++ rest) =
      some (5 + data.length) := by
  have hcount : (BitVec.ofNat 8 data.length).toNat = data.length := by
    rw [BitVec.toNat_ofNat]
    omega
  rw [frameLength_eq_some]
  refine ⟨by simp, .inr ⟨rfl, by simp, ?_⟩⟩
  simp [byteAt, hcount]
  omega

/-- A read response with its own CRC decodes to its data's number, whatever follows. -/
theorem decodeFrame_readResponse (addr : Byte) (data tail : List Byte) (hlen : data.length ≤ 255) :
    let body := [addr, 0x03, BitVec.ofNat 8 data.length] ++ data
    decodeFrame (withCrc body ++ tail) = .message
      { address := addr, function := 0x03, value := be data, crc := computeCRC body }
      (5 + data.length) := by
  intro body
  have hsplit : withCrc body ++ tail = body ++ (halfBytes (computeCRC body) ++ tail) := by
    rw [withCrc, List.append_assoc]
  have hbody : body.length + 2 = 5 + data.length := by simp [body]; omega
  have hframe : frameLength (withCrc body ++ tail) = some (body.length + 2) := by
    rw [hsplit, hbody]
    exact frameLength_of_read addr data _ hlen
  have hvalue : frameValue (withCrc body ++ tail) = be data := by
    rw [hsplit]
    exact frameValue_of_read addr data _ hlen
  rw [decodeFrame_withCrc_append hframe, hvalue, hbody]
  rfl

/-- Settles O25: `decodeFrame_readResponse`, and the number's own rules. -/
theorem readResponseValueIsExact : Obligations.ReadResponseValueIsExact := by
  unfold Obligations.ReadResponseValueIsExact
  exact ⟨decodeFrame_readResponse, be_lt, be_nil, be_append_singleton⟩

/-! Prefix stability (R101), and requests read as responses (R102, R67). -/

/-- The value of a complete frame lies within it. -/
theorem frameValue_append {buf : List Byte} {len : Nat} (s : List Byte)
    (h : frameLength buf = some len) (hfit : len ≤ buf.length) :
    frameValue (buf ++ s) = frameValue buf := by
  have hmin : 5 ≤ len := (frameLength_bounds h).1
  have hfunc : byteAt (buf ++ s) 1 = byteAt buf 1 := byteAt_append _ _ _ (by omega)
  rw [frameLength_eq_some] at h
  obtain ⟨-, ⟨h6, hlen⟩ | ⟨h3, -, hlen⟩⟩ := h
  · rw [frameValue_of_write (hfunc.trans h6), frameValue_of_write h6,
      byteAt_append _ _ _ (by omega), byteAt_append _ _ _ (by omega)]
  · rw [frameValue, frameValue, hfunc, if_pos h3, if_pos h3, byteAt_append _ _ _ (by omega),
      memRead, memRead, slice, slice, List.take_append_of_le_length (by omega)]

/-- What decides a frame lies within its length. -/
theorem decodeFrame_append {buf : List Byte} {len : Nat} (s : List Byte)
    (h : frameLength buf = some len) (hfit : len ≤ buf.length) :
    decodeFrame (buf ++ s) = decodeFrame buf := by
  have hmin : 5 ≤ len := (frameLength_bounds h).1
  have hfit' : len ≤ (buf ++ s).length := by simp; omega
  rw [decodeFrame_of_complete _ len (frameLength_append s h) hfit',
    decodeFrame_of_complete buf len h hfit, frameValue_append s h hfit,
    List.take_append_of_le_length (by omega), byteAt_append _ _ 0 (by omega),
    byteAt_append _ _ 1 (by omega), byteAt_append _ _ (len - 2) (by omega),
    byteAt_append _ _ (len - 1) (by omega)]

theorem decodeFrame_append_of_crcError {buf : List Byte} {len : Nat} (s : List Byte)
    (h : decodeFrame buf = .crcError len) : decodeFrame (buf ++ s) = .crcError len := by
  obtain ⟨hframe, -, hfit⟩ := decodeFrame_decided (.inl h)
  rw [decodeFrame_append s hframe hfit, h]

theorem decodeFrame_append_of_message {buf : List Byte} {m : Message} {len : Nat} (s : List Byte)
    (h : decodeFrame buf = .message m len) : decodeFrame (buf ++ s) = .message m len := by
  obtain ⟨hframe, -, hfit⟩ := decodeFrame_decided (.inr ⟨m, h⟩)
  rw [decodeFrame_append s hframe hfit, h]

/-- With a known function code some length fits once there are 260 bytes more (R95). -/
theorem decodeFrame_append_zeros {buf : List Byte} (h2 : 2 ≤ buf.length)
    (hfunc : byteAt buf 1 = 0x03 ∨ byteAt buf 1 = 0x06) :
    decodeFrame (buf ++ List.replicate 260 0) ≠ .needMoreBytes := by
  have hf : byteAt (buf ++ List.replicate 260 0) 1 = byteAt buf 1 := byteAt_append _ _ _ (by omega)
  have hl : (buf ++ List.replicate 260 0).length = buf.length + 260 := by
    rw [List.length_append, List.length_replicate]
  obtain ⟨len, hlen⟩ : ∃ len, frameLength (buf ++ List.replicate 260 0) = some len := by
    simp only [frameLength_eq_some, hf, hl]
    rcases hfunc with h3 | h6
    · exact ⟨_, by omega, .inr ⟨h3, by omega, rfl⟩⟩
    · exact ⟨8, by omega, .inl ⟨h6, rfl⟩⟩
  have hmax := (frameLength_bounds hlen).2
  rw [Ne, decodeFrame_needMoreBytes]
  intro hwait
  have := hwait len hlen
  omega

/-- Settles O27: `decodeFrame_append` in both decided outcomes, and `decodeFrame_append_zeros`. -/
theorem decodeIsPrefixStable : Obligations.DecodeIsPrefixStable := by
  unfold Obligations.DecodeIsPrefixStable
  refine ⟨fun buf s len h => ?_, fun buf s m len h => ?_, fun buf _ h2 hfunc => ?_⟩
  · obtain ⟨hframe, hmin, hfit⟩ := decodeFrame_decided (.inl h)
    exact ⟨decodeFrame_append_of_crcError s h, hmin, (frameLength_bounds hframe).2, hfit⟩
  · obtain ⟨hframe, hmin, hfit⟩ := decodeFrame_decided (.inr ⟨m, h⟩)
    exact ⟨decodeFrame_append_of_message s h, hmin, (frameLength_bounds hframe).2, hfit⟩
  · exact ⟨_, decodeFrame_append_zeros h2 hfunc⟩

/-- Settles O28: a write request is its own echo, and the third byte of a read request, its register's
high byte, stands where a response has its length. -/
theorem writeRequestRoundTrip : Obligations.WriteRequestRoundTrip := by
  unfold Obligations.WriteRequestRoundTrip
  refine ⟨fun addr reg value => ?_, fun addr reg => ?_⟩
  · obtain ⟨hwrite, -⟩ := writeResponseValueIsBytesFourAndFive
    have hdec : decodeFrame (encWrFrame addr reg value ++ []) = _ :=
      hwrite addr (hi8 reg) (lo8 reg) (hi8 value) (lo8 value) []
    have htake : (encWrFrame addr reg value).take 6 = _ := buildFrame_take_six addr 0x06 reg value
    rw [← join_toNat, join_hi8_lo8, List.append_nil] at hdec
    rw [htake]
    exact hdec
  · rw [frameLength_eq_some, encRdFrame_eq]
    exact ⟨by simp, .inr ⟨rfl, by simp, rfl⟩⟩

end Sys2Proof.Machine
end

section
/-! The output only grows (spec/10_state.md R30): what each shared operation appends, and which
outcomes are among it (spec/60_exceptions.md sections 1 and 2). -/

namespace Sys2Proof.Machine

/-- `t` has emitted, after `s`, only events with the property. -/
def Emits (p : OutEvent → Prop) (s t : State) : Prop :=
  ∃ es, t.out = s.out ++ es ∧ ∀ e ∈ es, p e

/-- An outcome this event carries is `Ok`. -/
def carriesOk (e : OutEvent) : Prop := ∀ o, e.outcome? = some o → ∃ v, o = .ok v

theorem emits_nothing {p : OutEvent → Prop} {s t : State} (h : t.out = s.out) : Emits p s t :=
  ⟨[], by rw [h, List.append_nil], by simp⟩

theorem emits_one {p : OutEvent → Prop} {s t : State} {e : OutEvent} (h : t.out = s.out ++ [e])
    (he : p e) : Emits p s t :=
  ⟨[e], h, by simpa using he⟩

theorem Emits.trans {p : OutEvent → Prop} {s t u : State} (h : Emits p s t) (h' : Emits p t u) :
    Emits p s u := by
  obtain ⟨es, hes, hp⟩ := h
  obtain ⟨fs, hfs, hq⟩ := h'
  refine ⟨es ++ fs, by rw [hfs, hes, List.append_assoc], fun e he => ?_⟩
  rcases List.mem_append.1 he with he | he
  · exact hp e he
  · exact hq e he

theorem Emits.mono {p q : OutEvent → Prop} {s t : State} (hpq : ∀ e, p e → q e)
    (h : Emits p s t) : Emits q s t := by
  obtain ⟨es, hes, hp⟩ := h
  exact ⟨es, hes, fun e he => hpq e (hp e he)⟩

theorem emits_transmit (s : State) : Emits carriesOk s (transmit s) := by
  cases hb : s.busy with
  | true => exact emits_nothing (by rw [transmit_of_busy hb])
  | false =>
    rw [transmit_promotes ((busy_eq_false s).1 hb)]
    refine ⟨_, rfl, fun e he => ?_⟩
    obtain ⟨d, -, rfl⟩ := List.mem_map.1 he
    nofun

/-- DELIVER emits its outcome and no other (R118). -/
theorem emits_deliver {p : OutEvent → Prop} {o : CmdOutcome} (hp : ∀ e, e.outcome? = some o → p e)
    (g : Origin) (s : State) : Emits p s (deliver g o s) := by
  cases g with
  | caller h => exact emits_one rfl (hp _ rfl)
  | keepalive =>
    cases hobs : s.kaObserver with
    | true => exact emits_one (by simp [deliver, hobs]) (hp (.kaResult o) rfl)
    | false => exact emits_nothing (by simp [deliver, hobs])

theorem emits_onMessage (m : Message) (s : State) : Emits carriesOk s (onMessage m s) := by
  rcases onMessage_cases m s with ⟨before, c, after, -, -, -, hm⟩ | ⟨-, hm⟩ <;> rw [hm]
  · refine Emits.trans ?_ (emits_transmit _)
    refine emits_deliver (fun e he o ho => ?_) c.origin { s with queue := before ++ after }
    rw [he] at ho
    cases ho
    exact ⟨_, rfl⟩
  · exact emits_one rfl nofun

theorem emits_drain (s : State) : Emits carriesOk s (drain s) := by
  refine drain_induction (P := fun u => Emits carriesOk s u) (fun u len hu _ => ?_)
    (fun u m len hu _ => ?_) s (emits_nothing rfl)
  · exact hu.trans (emits_one rfl nofun)
  · exact hu.trans (emits_onMessage m { u with rxBuf := u.rxBuf.drop len })

theorem emits_receive (bs : List Byte) (s : State) : Emits carriesOk s (receive bs s) := by
  rcases receive_cases bs s with ⟨-, hr⟩ | ⟨-, -, hr⟩ | ⟨-, -, hr⟩ <;> rw [hr]
  · exact emits_nothing rfl
  · exact emits_nothing rfl
  · exact emits_drain { s with rxBuf := s.rxBuf ++ bs }

/-- Link loss of an open session emits LinkClosed and nothing else (R126). -/
theorem emits_linkLoss {p : OutEvent → Prop} {s : State}
    (hp : s.linkUp = true → ∀ e, e.outcome? = some (.err .linkClosed) → p e) :
    Emits p s (linkLoss s) := by
  rw [linkLoss]
  cases hl : s.linkUp with
  | false => exact emits_nothing rfl
  | true =>
    have hall (q : List Command) (u : State) : Emits p u (deliverAll (.err .linkClosed) q u) := by
      induction q generalizing u with
      | nil => exact emits_nothing rfl
      | cons c q ih => exact (emits_deliver (hp hl) c.origin u).trans (ih _)
    exact hall s.queue
      { s with kaEnabled := false, kaTimer := none, queue := [], rxBuf := [], linkUp := false }

/-- The outcomes that may leave while `i` is performed in `s` (R151, R155). -/
def deliverable (i : Instr) (s : State) (e : OutEvent) : Prop :=
  ∀ o, e.outcome? = some o →
    (∃ v, o = .ok v) ∨
    (o = .err .transportUnavailable ∧ s.linkUp = false) ∨
    (o = .err .linkClosed ∧ s.linkUp = true ∧ (i = .disconnect ∨ i = .transportFail))

theorem deliverable_of_carriesOk (i : Instr) (s : State) (e : OutEvent) (h : carriesOk e) :
    deliverable i s e :=
  fun o ho => .inl (h o ho)

theorem emits_effect {i : Instr} {s t : State} (hi : i.fromOutside = true) (hreset : i ≠ .reset)
    (he : Effect s i t) : Emits (deliverable i s) s t := by
  cases he with
  | receives i bs hbs => exact (emits_receive bs s).mono (deliverable_of_carriesOk i s)
  | resets => exact absurd rfl hreset
  | closes i hclose =>
    refine emits_linkLoss fun hl e hcarry o ho => .inr (.inr ⟨?_, hl, hclose⟩)
    rw [hcarry] at ho
    cases ho
    rfl
  | failsAtOnce i s' c hsub hl =>
    obtain ⟨timer, outstanding, rfl⟩ := hsub.prepared
    refine emits_deliver (fun e hcarry o ho => .inr (.inl ⟨?_, hl⟩)) c.origin
      { s with kaTimer := timer, kaOutstanding := outstanding }
    rw [hcarry] at ho
    cases ho
    rfl
  | enqueues i s' c hsub hl hroom =>
    obtain ⟨timer, outstanding, rfl⟩ := hsub.prepared
    exact (emits_transmit { s with queue := s.queue ++ [c], kaTimer := timer,
                                   kaOutstanding := outstanding }).mono
      (deliverable_of_carriesOk i s)
  | delivers | transmits | takesMessage | reports => cases hi
  | answers | opens | starts | stops | idles | waits => exact emits_nothing rfl

/-- Settles O58: what each shared operation emits, by `emits_effect`. -/
theorem onlyTwoErrorsAreEverDelivered : Obligations.OnlyTwoErrorsAreEverDelivered := by
  unfold Obligations.OnlyTwoErrorsAreEverDelivered
  intro i s t hi hreset he
  exact emits_effect hi hreset (exec_effect he)

end Sys2Proof.Machine
end

section
/-! The loop of RX (spec/42_reassembler.md): one frame at a time, whole frames only, whatever the
chunks, and how a stalled buffer ends it. -/

namespace Sys2Proof.Machine

/-- Induction along the loop of RX, from where it stops back to where it starts (R106, R107). -/
theorem drain_recursion {P : State → Prop}
    (hstop : ∀ s : State, decodeFrame s.rxBuf = .needMoreBytes → P s)
    (hbad : ∀ (s : State) (len : Nat), decodeFrame s.rxBuf = .crcError len →
      P { s with rxBuf := s.rxBuf.drop len,
                 out := s.out ++ [.log (.crcError (s.rxBuf.take len))] } → P s)
    (hgood : ∀ (s : State) (m : Message) (len : Nat), decodeFrame s.rxBuf = .message m len →
      P (onMessage m { s with rxBuf := s.rxBuf.drop len }) → P s)
    (s : State) : P s := by
  induction hn : s.rxBuf.length using Nat.strong_induction_on generalizing s with
  | _ n ih =>
    cases h : decodeFrame s.rxBuf with
    | needMoreBytes => exact hstop s h
    | crcError len =>
      obtain ⟨-, hmin, hfit⟩ := decodeFrame_decided (.inl h)
      exact hbad s len h (ih (s.rxBuf.length - len) (by omega) _ (by simp))
    | message m len =>
      obtain ⟨-, hmin, hfit⟩ := decodeFrame_decided (.inr ⟨m, h⟩)
      exact hgood s m len h (ih (s.rxBuf.length - len) (by omega) _ (by simp))

/-! Whole frames only. -/

theorem byteAt_take_append {buf : List Byte} {n i : Nat} (s : List Byte) (hi : i < n)
    (hn : n ≤ buf.length) : byteAt (buf.take n ++ s) i = byteAt buf i := by
  rw [byteAt_append _ _ _ (by rw [List.length_take]; omega)]
  conv => rhs; rw [← List.take_append_drop n buf]
  rw [byteAt_append _ _ _ (by rw [List.length_take]; omega)]

/-- The length rule reads the first three bytes only (R95). -/
theorem frameLength_take_append {buf : List Byte} {len n : Nat} (s : List Byte)
    (h : frameLength buf = some len) (h3 : 3 ≤ n) (hn : n ≤ buf.length) :
    frameLength (buf.take n ++ s) = some len := by
  have hl : (buf.take n ++ s).length = n + s.length := by
    rw [List.length_append, List.length_take]
    omega
  rw [frameLength_eq_some] at h ⊢
  rw [byteAt_take_append s (by omega) hn, byteAt_take_append s (by omega) hn, hl]
  obtain ⟨-, hwrite | ⟨hfunc, -, hlen⟩⟩ := h
  · exact ⟨by omega, .inl hwrite⟩
  · exact ⟨by omega, .inr ⟨hfunc, by omega, hlen⟩⟩

/-- A decided frame, cut off the buffer, has the length its bytes declare. -/
theorem frameLength_take {buf : List Byte} {len : Nat} (h : frameLength buf = some len)
    (hfit : len ≤ buf.length) : frameLength (buf.take len) = some (buf.take len).length := by
  have hmin : 5 ≤ len := (frameLength_bounds h).1
  have hcut := frameLength_take_append [] h (by omega) hfit
  rw [List.append_nil] at hcut
  rw [List.length_take_of_le hfit]
  exact hcut

/-- The loop takes whole frames off the front, and what it leaves is not decidable. -/
theorem drain_rxBuf (s : State) :
    ∃ frames : List (List Byte), s.rxBuf = frames.flatten ++ (drain s).rxBuf ∧
      (∀ f ∈ frames, frameLength f = some f.length) ∧
      decodeFrame (drain s).rxBuf = .needMoreBytes := by
  have hcons {buf rest : List Byte} {len : Nat} {frames : List (List Byte)}
      (hd : buf.drop len = frames.flatten ++ rest) :
      buf = (buf.take len :: frames).flatten ++ rest := by
    rw [List.flatten_cons, List.append_assoc, ← hd, List.take_append_drop]
  induction s using drain_recursion with
  | hstop s h =>
    rw [drain_needMoreBytes h]
    exact ⟨[], rfl, by simp, h⟩
  | hbad s len h ih =>
    obtain ⟨hlen, -, hfit⟩ := decodeFrame_decided (.inl h)
    obtain ⟨frames, hsplit, hframes, hstop⟩ := ih
    rw [drain_crcError h]
    exact ⟨_, hcons hsplit, List.forall_mem_cons.2 ⟨frameLength_take hlen hfit, hframes⟩, hstop⟩
  | hgood s m len h ih =>
    obtain ⟨hlen, -, hfit⟩ := decodeFrame_decided (.inr ⟨m, h⟩)
    obtain ⟨frames, hsplit, hframes, hstop⟩ := ih
    rw [onMessage_rxBuf] at hsplit
    rw [drain_message h]
    exact ⟨_, hcons hsplit, List.forall_mem_cons.2 ⟨frameLength_take hlen hfit, hframes⟩, hstop⟩

theorem decodeFrame_drain (s : State) : decodeFrame (drain s).rxBuf = .needMoreBytes := by
  obtain ⟨-, -, -, hstop⟩ := drain_rxBuf s
  exact hstop

theorem length_drain_rxBuf_le (s : State) : (drain s).rxBuf.length ≤ s.rxBuf.length := by
  obtain ⟨frames, hsplit, -, -⟩ := drain_rxBuf s
  rw [hsplit, List.length_append]
  omega

/-- Settles O30: RX with room is the loop, and `drain_rxBuf` says what it removes. -/
theorem receiveConsumesWholeFramesOnly : Obligations.ReceiveConsumesWholeFramesOnly := by
  unfold Obligations.ReceiveConsumesWholeFramesOnly
  intro s chunk hl hr
  obtain ⟨frames, hsplit, hframes, hstop⟩ := drain_rxBuf { s with rxBuf := s.rxBuf ++ chunk }
  exact ⟨_, frames, exec_rx_of_room hl hr, hsplit, hframes, hstop⟩

/-! One frame at a time (R106). -/

theorem exec_onMessage (m : Message) (s : State) : exec (.onMessage m) s = .next (onMessage m s) := rfl

theorem exec_rx (chunk : List Byte) (s : State) : exec (.rx chunk) s = .next (receive chunk s) := rfl

/-- Behind a good frame RX goes on as RX of no bytes would. -/
theorem exec_rx_of_message {s : State} {chunk : List Byte} {m : Message} {len : Nat}
    (hl : s.linkUp = true) (hr : s.roomFor chunk.length)
    (h : decodeFrame (s.rxBuf ++ chunk) = .message m len) :
    exec (.rx chunk) s =
      exec (.rx []) (onMessage m { s with rxBuf := (s.rxBuf ++ chunk).drop len }) := by
  rw [exec_rx_of_room hl hr, drain_withRxBuf_of_message s h]
  symm
  refine exec_rx_nil_of_room (by simpa using hl) fun cap hcap => ?_
  have hfit := hr cap (by simpa using hcap)
  simp only [onMessage_rxBuf, List.length_drop, List.length_append]
  omega

/-- RX that leaves the front undecided only appends. -/
theorem exec_rx_of_needMoreBytes {s : State} {chunk : List Byte} (hl : s.linkUp = true)
    (hr : s.roomFor chunk.length) (h : decodeFrame (s.rxBuf ++ chunk) = .needMoreBytes) :
    exec (.rx chunk) s = .next { s with rxBuf := s.rxBuf ++ chunk } := by
  rw [exec_rx_of_room hl hr, drain_needMoreBytes h]

/-- Bytes that stand in the buffer are received as bytes that arrive at an empty one. -/
theorem exec_rx_nil_withRxBuf {s : State} {bs : List Byte} (hl : s.linkUp = true)
    (hb : s.rxBuf = []) (hr : s.roomFor bs.length) :
    exec (.rx []) { s with rxBuf := bs } = exec (.rx bs) s := by
  have hroom : ({ s with rxBuf := bs } : State).roomFor 0 := fun cap hcap => by
    have := hr cap hcap
    simp only
    omega
  rw [exec_rx_nil_of_room (s := { s with rxBuf := bs }) hl hroom, exec_rx_of_rxBuf_nil hl hb hr]

theorem receive_of_linkDown {chunk : List Byte} {s : State} (hl : s.linkUp = false) :
    receive chunk s = s := by
  rw [receive, if_pos hl]

/-- Bytes that do not fit set the mark and nothing else (R28). -/
theorem receive_of_overflow {chunk : List Byte} {s : State} (hl : s.linkUp = true)
    (h : ∃ cap, s.cfg.rxBufCap = some cap ∧ cap < s.rxBuf.length + chunk.length) :
    receive chunk s = { s with fault := some .rxOverflow } := by
  have hover : s.rxOverflows chunk = true := (rxOverflows_eq_true s chunk).2 h
  rw [receive, hl, hover]
  rfl

/-- Settles O29: the three ways RX starts, and the three answers of DECODE. -/
theorem receiveUnrollsFrameByFrame : Obligations.ReceiveUnrollsFrameByFrame := by
  unfold Obligations.ReceiveUnrollsFrameByFrame
  refine fun s chunk => ⟨fun hl => ?_, fun hl hover => ?_, fun hl hr => ⟨?_, ?_, ?_⟩⟩
  · rw [exec_rx, receive_of_linkDown hl]
  · rw [exec_rx, receive_of_overflow hl hover]
  · exact exec_rx_of_needMoreBytes hl hr
  · exact fun len => exec_rx_of_crcError hl hr
  · exact fun m len h => ⟨_, rfl, exec_rx_of_message hl hr h⟩

/-! Chunks (R111). -/

/-- Bytes that arrive before the loop runs, or after it, come to the same. -/
theorem drain_append (bs : List Byte) (s : State) :
    drain { s with rxBuf := s.rxBuf ++ bs } =
      drain { drain s with rxBuf := (drain s).rxBuf ++ bs } := by
  induction s using drain_recursion with
  | hstop s h => rw [drain_needMoreBytes h]
  | hbad s len h ih =>
    obtain ⟨-, -, hfit⟩ := decodeFrame_decided (.inl h)
    rw [drain_withRxBuf_of_crcError s (decodeFrame_append_of_crcError bs h), drain_crcError h, ← ih,
      List.drop_append_of_le_length hfit, List.take_append_of_le_length hfit]
  | hgood s m len h ih =>
    obtain ⟨-, -, hfit⟩ := decodeFrame_decided (.inr ⟨m, h⟩)
    have hmsg := onMessage_withRxBuf m { s with rxBuf := s.rxBuf.drop len } (s.rxBuf.drop len ++ bs)
    rw [onMessage_rxBuf] at ih
    rw [drain_withRxBuf_of_message s (decodeFrame_append_of_message bs h), drain_message h,
      List.drop_append_of_le_length hfit, hmsg, ih]

/-- Receiving the first chunk and then the rest is receiving them together. -/
theorem execAll_rx_chunks {s : State} (chunks : List (List Byte)) (hl : s.linkUp = true)
    (hr : s.roomFor chunks.flatten.length) (hstop : decodeFrame s.rxBuf = .needMoreBytes) :
    execAll (chunks.map .rx) s = exec (.rx chunks.flatten) s := by
  induction chunks generalizing s with
  | nil => rw [List.flatten_nil, exec_rx_nil_of_room hl hr, drain_needMoreBytes hstop]; rfl
  | cons c cs ih =>
    rw [List.flatten_cons, List.length_append] at hr
    have hlen := length_drain_rxBuf_le { s with rxBuf := s.rxBuf ++ c }
    simp only [List.length_append] at hlen
    have hfirst : s.roomFor c.length := fun cap hcap => by have := hr cap hcap; omega
    have hrest : (drain { s with rxBuf := s.rxBuf ++ c }).roomFor cs.flatten.length := by
      intro cap hcap
      have := hr cap (by simpa using hcap)
      omega
    have hlink : (drain { s with rxBuf := s.rxBuf ++ c }).linkUp = true := by simpa using hl
    have hwhole : s.roomFor (c ++ cs.flatten).length := by rwa [List.length_append]
    simp only [List.map_cons, execAll, exec_rx_of_room hl hfirst]
    rw [ih hlink hrest (decodeFrame_drain _), exec_rx_of_room hlink hrest, List.flatten_cons,
      exec_rx_of_room hl hwhole, ← List.append_assoc,
      ← drain_append cs.flatten { s with rxBuf := s.rxBuf ++ c }]

/-- Settles O32, by induction on the chunks with `drain_append`. -/
theorem chunkingIsImmaterial : Obligations.ChunkingIsImmaterial := by
  unfold Obligations.ChunkingIsImmaterial
  exact fun s chunks => execAll_rx_chunks chunks

/-! A flipped CRC bit (R112). -/

/-- The CRC field behind a body reads back as it was written. -/
theorem join_byteAt_halfBytes (body tail : List Byte) (c : Half) :
    join (byteAt (body ++ halfBytes c ++ tail) body.length)
      (byteAt (body ++ halfBytes c ++ tail) (body.length + 1)) = c := by
  simp only [byteAt, halfBytes, List.append_assoc, List.getD_append_right, Nat.le_refl,
    Nat.le_add_right, Nat.sub_self, Nat.add_sub_cancel_left, List.cons_append, List.getD_cons_zero,
    List.getD_cons_succ, join_hi8_lo8]

/-- A whole frame with another CRC than its own is a bad frame of its length (R96). -/
theorem decodeFrame_wrongCrc {body : List Byte} {c : Half} (hc : c ≠ computeCRC body)
    (h : frameLength (body ++ halfBytes c) = some (body.length + 2)) :
    decodeFrame (body ++ halfBytes c) = .crcError (body.length + 2) := by
  have hcarried := join_byteAt_halfBytes body [] c
  rw [List.append_nil] at hcarried
  have hfit : body.length + 2 ≤ (body ++ halfBytes c).length := by simp [halfBytes]
  have hlast : body.length + 2 - 1 = body.length + 1 := rfl
  rw [decodeFrame_of_complete _ _ h hfit, Nat.add_sub_cancel, hlast, hcarried, List.take_left,
    if_pos hc.symm]

/-- The CRC of a Message is the one computed over its frame. -/
theorem message_crc_of_decodeFrame {buf : List Byte} {m : Message} {len : Nat}
    (h : decodeFrame buf = .message m len) : m.crc = computeCRC (buf.take (len - 2)) := by
  obtain ⟨hlen, -, hfit⟩ := decodeFrame_decided (.inr ⟨m, h⟩)
  have hcrc := computeCRC_of_decodeFrame_message h
  rw [decodeFrame_of_complete _ _ hlen hfit, if_neg (not_not_intro hcrc)] at h
  cases h
  exact hcrc.symm

theorem xor_one_shiftLeft_ne (c : Half) {k : Nat} (hk : k < 16) : c ^^^ (1#16 <<< k) ≠ c := by
  intro h
  have hbit := congrArg (fun x => BitVec.getLsbD x k) h
  simp [hk] at hbit

/-- A valid frame with one CRC bit flipped is a bad frame of the same length. -/
theorem decodeFrame_flipped {f : List Byte} {m : Message} {k : Nat}
    (h : decodeFrame f = .message m f.length) (hk : k < 16) :
    let bad := f.take (f.length - 2) ++ halfBytes (m.crc ^^^ (1#16 <<< k))
    decodeFrame bad = .crcError f.length ∧ bad.length = f.length := by
  intro bad
  obtain ⟨hlen, hmin, -⟩ := decodeFrame_decided (.inr ⟨m, h⟩)
  have hbody : (f.take (f.length - 2)).length + 2 = f.length := by
    rw [List.length_take]
    omega
  have hne : m.crc ^^^ (1#16 <<< k) ≠ computeCRC (f.take (f.length - 2)) := by
    rw [← message_crc_of_decodeFrame h]
    exact xor_one_shiftLeft_ne m.crc hk
  have hframe : frameLength bad = some ((f.take (f.length - 2)).length + 2) := by
    rw [hbody]
    exact frameLength_take_append _ hlen (by omega) (by omega)
  have hdec := decodeFrame_wrongCrc hne hframe
  rw [hbody] at hdec
  exact ⟨hdec, hbody ▸ List.length_append⟩

/-- Settles O33: the flipped frame is bad, by `decodeFrame_flipped`, and is dropped as any bad frame. -/
theorem flippedCrcBitIsDropped : Obligations.FlippedCrcBitIsDropped := by
  unfold Obligations.FlippedCrcBitIsDropped
  intro s f tail m k h hk hl hb hr bad
  obtain ⟨hdec, hlen⟩ : decodeFrame bad = .crcError f.length ∧ bad.length = f.length :=
    decodeFrame_flipped h hk
  have hfront : decodeFrame (s.rxBuf ++ (bad ++ tail)) = .crcError f.length := by
    rw [hb]
    exact decodeFrame_append_of_crcError tail hdec
  have hwhole : s.roomFor (bad ++ tail).length := by rwa [List.length_append, hlen]
  have htail : ({ s with out := s.out ++ [.log (.crcError bad)] } : State).roomFor tail.length := by
    intro cap hcap
    have := hr cap hcap
    simp only
    omega
  have hdrop : (s.rxBuf ++ (bad ++ tail)).drop f.length = tail := by
    rw [hb, List.nil_append, ← hlen, List.drop_left]
  have htake : (s.rxBuf ++ (bad ++ tail)).take f.length = bad := by
    rw [hb, List.nil_append, ← hlen, List.take_left]
  rw [exec_rx_of_crcError hl hwhole hfront, hdrop, htake]
  exact exec_rx_nil_withRxBuf (s := { s with out := s.out ++ [.log (.crcError bad)] }) hl hb htail

end Sys2Proof.Machine
end

section
/-! What reception and link loss change (spec/42_reassembler.md, spec/43_correlator.md sections 3 and
4): the frame of RX, a stalled session, link loss whole, and who writes configuration, address and fault
mark. -/

namespace Sys2Proof.Machine

/-! The frame of reception. -/

/-- All that ON_MESSAGE and the loop of RX can do to keepalive and queue. -/
structure Reception (s t : State) : Prop where
  enabled : t.kaEnabled = s.kaEnabled
  interval : t.kaInterval = s.kaInterval
  timer : t.kaTimer = s.kaTimer ∨ (s.kaEnabled = true ∧ t.kaTimer = some s.kaInterval)
  outstanding : t.kaOutstanding = s.kaOutstanding ∨ t.kaOutstanding = false
  frames : (t.queue.map Command.frame).Sublist (s.queue.map Command.frame)

theorem Reception.trans {s t u : State} (h : Reception s t) (h' : Reception t u) : Reception s u where
  enabled := h'.enabled.trans h.enabled
  interval := h'.interval.trans h.interval
  timer := by
    have htimer := h'.timer
    rw [h.enabled, h.interval] at htimer
    rcases htimer with ht | ht
    · rw [ht]; exact h.timer
    · exact .inr ht
  outstanding := by
    rcases h'.outstanding with ho | ho
    · rw [ho]; exact h.outstanding
    · exact .inr ho
  frames := h'.frames.trans h.frames

theorem reception_of_queue {s : State} {q : List Command} (b : List Byte) (o : List OutEvent)
    (hq : q.Sublist s.queue) : Reception s { s with queue := q, rxBuf := b, out := o } :=
  ⟨rfl, rfl, .inl rfl, .inl rfl, hq.map _⟩

theorem reception_deliver (g : Origin) (o : CmdOutcome) (s : State) :
    Reception s (deliver g o s) where
  enabled := deliver_kaEnabled g o s
  interval := deliver_kaInterval g o s
  timer := by cases g <;> cases he : s.kaEnabled <;> simp [deliver, he]
  outstanding := by cases g <;> simp [deliver]
  frames := by rw [deliver_queue]

/-- TRANSMIT marks a Command, but adds and removes none, and changes nothing else about it. -/
theorem map_transmit {α : Type} (g : Command → α) (hg : ∀ c x, g { c with st := x } = g c)
    (s : State) : (transmit s).queue.map g = s.queue.map g := by
  cases hb : s.busy with
  | true => rw [transmit_of_busy hb]
  | false =>
    rw [transmit_promotes ((busy_eq_false s).1 hb)]
    cases s.queue with
    | nil => rfl
    | cons c rest => exact congrArg (· :: rest.map g) (hg c .inFlight)

theorem frames_transmit (s : State) :
    (transmit s).queue.map Command.frame = s.queue.map Command.frame :=
  map_transmit _ (fun _ _ => rfl) s

/-- What holds of the frames of a queue holds of those of any part of it. -/
theorem forall_frame_of_sublist {P : List Byte → Prop} {q q' : List Command}
    (hsub : (q'.map Command.frame).Sublist (q.map Command.frame)) (h : ∀ c ∈ q, P c.frame) :
    ∀ c ∈ q', P c.frame := by
  intro c hc
  obtain ⟨d, hd, hframe⟩ := List.mem_map.1 (hsub.subset (List.mem_map_of_mem hc))
  exact hframe ▸ h d hd

theorem reception_transmit (s : State) : Reception s (transmit s) where
  enabled := transmit_kaEnabled s
  interval := transmit_kaInterval s
  timer := .inl (transmit_kaTimer s)
  outstanding := .inl (transmit_kaOutstanding s)
  frames := by rw [frames_transmit]

theorem reception_onMessage (m : Message) (s : State) : Reception s (onMessage m s) := by
  rcases onMessage_cases m s with ⟨before, c, after, hq, -, -, hm⟩ | ⟨-, hm⟩ <;> rw [hm]
  · have hsub : (before ++ after).Sublist s.queue :=
      hq ▸ List.Sublist.append_left (List.sublist_cons_self c after) before
    exact ((reception_of_queue s.rxBuf s.out hsub).trans (reception_deliver ..)).trans
      (reception_transmit _)
  · exact reception_of_queue _ _ (.refl _)

theorem reception_drain (s : State) : Reception s (drain s) := by
  refine drain_induction (P := Reception s) (fun u len hu _ => ?_) (fun u m len hu _ => ?_) s
    (reception_of_queue s.rxBuf s.out (.refl _))
  · exact hu.trans (reception_of_queue _ _ (.refl _))
  · exact hu.trans ((reception_of_queue _ u.out (.refl _)).trans
      (reception_onMessage m { u with rxBuf := u.rxBuf.drop len }))

/-- What RX leaves alone, and how little it does to the rest. -/
theorem receive_frame {bs : List Byte} {s t : State} (h : receive bs s = t) :
    t.cfg = s.cfg ∧ t.linkUp = s.linkUp ∧ t.devAddr = s.devAddr ∧ t.kaObserver = s.kaObserver ∧
    t.ret = s.ret ∧ t.inputs = s.inputs ∧
    (t.fault = s.fault ∨ t = { s with fault := some .rxOverflow }) ∧ Reception s t := by
  subst h
  rcases receive_cases bs s with ⟨-, hr⟩ | ⟨-, -, hr⟩ | ⟨-, -, hr⟩ <;> rw [hr]
  · exact ⟨rfl, rfl, rfl, rfl, rfl, rfl, .inl rfl, ⟨rfl, rfl, .inl rfl, .inl rfl, .refl _⟩⟩
  · exact ⟨rfl, rfl, rfl, rfl, rfl, rfl, .inr rfl, ⟨rfl, rfl, .inl rfl, .inl rfl, .refl _⟩⟩
  · refine ⟨by simp, by simp, by simp, by simp, by simp, by simp, .inl (by simp), ?_⟩
    exact (reception_of_queue (s.rxBuf ++ bs) s.out (.refl _)).trans (reception_drain _)

/-- Settles O31: `receive_frame`, and the output by `emits_receive`. -/
theorem receiveLeavesTheRestAlone : Obligations.ReceiveLeavesTheRestAlone := by
  unfold Obligations.ReceiveLeavesTheRestAlone
  intro s t i hi he
  obtain ⟨bs, hr⟩ : ∃ bs, receive bs s = t := by
    obtain ⟨chunk, rfl⟩ | ⟨a, d, c, rfl⟩ | ⟨a, r, v, c, rfl⟩ := hi <;> cases he <;> exact ⟨_, rfl⟩
  obtain ⟨hcfg, hlink, haddr, hobs, hret, hinputs, hfault, hrec⟩ := receive_frame hr
  obtain ⟨es, hout, -⟩ := emits_receive bs s
  exact ⟨hcfg, hlink, haddr, hrec.enabled, hobs, hrec.interval, hret, hinputs, hfault, hrec.timer,
    hrec.outstanding, hrec.frames, es, hr ▸ hout⟩

/-- Settles O36: both frame rows are RX of the bytes of their layout, by definition. -/
theorem inboundFramesArriveAsChunks : Obligations.InboundFramesArriveAsChunks := by
  unfold Obligations.InboundFramesArriveAsChunks
  exact fun s addr data reg value crc => ⟨rfl, rfl⟩

/-! A stalled session (R110). -/

theorem stalledBuf_iff (buf : List Byte) :
    stalledBuf buf = true ↔ 2 ≤ buf.length ∧ byteAt buf 1 ≠ 0x03 ∧ byteAt buf 1 ≠ 0x06 := by
  simp [stalledBuf, and_assoc]

/-- Bytes behind a stalled front do not end the stall, and DECODE waits for ever. -/
theorem stalledBuf_append {buf : List Byte} (more : List Byte) (h : stalledBuf buf = true) :
    stalledBuf (buf ++ more) = true ∧ decodeFrame (buf ++ more) = .needMoreBytes := by
  obtain ⟨h2, h3, h6⟩ := (stalledBuf_iff buf).1 h
  refine ⟨(stalledBuf_iff _).2 ?_, decodeFrame_append_of_unknown more h2 h3 h6⟩
  rw [byteAt_append _ _ _ h2, List.length_append]
  exact ⟨by omega, h3, h6⟩

theorem receive_of_stalled (bs : List Byte) {s : State} (h : s.rxStalled = true) :
    ∃ more, (receive bs s).rxBuf = s.rxBuf ++ more := by
  rcases receive_cases bs s with ⟨-, hr⟩ | ⟨-, -, hr⟩ | ⟨-, -, hr⟩ <;> rw [hr]
  · exact ⟨[], (List.append_nil _).symm⟩
  · exact ⟨[], (List.append_nil _).symm⟩
  · rw [drain_needMoreBytes (stalledBuf_append bs h).2]
    exact ⟨bs, rfl⟩

/-- Of a stalled session's link and buffer an operation that does not end it only lets bytes pile up. -/
theorem stalled_effect {i : Instr} {s t : State} (hl : s.linkUp = true) (hs : s.rxStalled = true)
    (hend : endsSession i = false) (he : Effect s i t) :
    t.linkUp = s.linkUp ∧ ∃ more, t.rxBuf = s.rxBuf ++ more := by
  have hnone {u : State} (hlink : u.linkUp = s.linkUp) (hbuf : u.rxBuf = s.rxBuf) :
      u.linkUp = s.linkUp ∧ ∃ more, u.rxBuf = s.rxBuf ++ more :=
    ⟨hlink, [], by rw [hbuf, List.append_nil]⟩
  cases he with
  | receives i bs hbs =>
    obtain ⟨-, hlink, -⟩ := receive_frame (rfl : receive bs s = _)
    exact ⟨hlink, receive_of_stalled bs hs⟩
  | resets => cases hend
  | closes i hclose => obtain rfl | rfl := hclose <;> cases hend
  | opens addr hdown | failsAtOnce i s' c hsub hdown => rw [hl] at hdown; cases hdown
  | enqueues i s' c hsub hup hroom =>
    obtain ⟨timer, outstanding, rfl⟩ := hsub.prepared
    exact hnone (transmit_linkUp _) (transmit_rxBuf _)
  | delivers origin o => exact hnone (deliver_linkUp ..) (deliver_rxBuf ..)
  | transmits => exact hnone (transmit_linkUp s) (transmit_rxBuf s)
  | takesMessage m => exact hnone (onMessage_linkUp m s) (onMessage_rxBuf m s)
  | reports o => exact hnone (kaDone_linkUp o s) (kaDone_rxBuf o s)
  | answers | starts | stops | idles | waits => exact hnone rfl rfl

/-- Settles O35: `stalled_effect`, and RX only appends where DECODE waits. -/
theorem stallPersists : Obligations.StallPersists := by
  unfold Obligations.StallPersists
  refine ⟨fun i s t hl hs hend he => ?_, fun s chunk hl hs hr => ?_⟩
  · obtain ⟨hlink, more, hbuf⟩ := stalled_effect hl hs hend (exec_effect he)
    refine ⟨hlink.trans hl, ?_, more, hbuf⟩
    rw [State.rxStalled, hbuf]
    exact (stalledBuf_append more hs).1
  · exact exec_rx_of_needMoreBytes hl hr (stalledBuf_append chunk hs).2

/-! Link loss, whole (R126). -/

theorem linkLoss_of_linkDown {s : State} (hl : s.linkUp = false) : linkLoss s = s := by
  rw [linkLoss, if_pos hl]

theorem linkLoss_of_linkUp {s : State} (hl : s.linkUp = true) :
    linkLoss s = { s with
      linkUp := false
      queue := []
      rxBuf := []
      kaEnabled := false
      kaTimer := none
      kaOutstanding := s.kaOutstanding && !(s.queue.any Command.isKeepalive)
      out := s.out ++ s.queue.flatMap (closedEvents s.kaObserver) } := by
  have hopen : ¬ s.linkUp = false := by simp [hl]
  rw [linkLoss, if_neg hopen, deliverAll_eq]
  simp only [Bool.and_false, Bool.false_eq_true, if_false]
  rfl

theorem exec_disconnect (s : State) : exec .disconnect s = .next (linkLoss s) := rfl

/-- Settles O45: link loss in its two cases; both events are it. -/
theorem linkLossFailsEveryCommand : Obligations.LinkLossFailsEveryCommand := by
  unfold Obligations.LinkLossFailsEveryCommand
  refine fun s => ⟨fun hl => ?_, fun hl => ?_, rfl⟩
  · rw [exec_disconnect, linkLoss_of_linkDown hl]
  · rw [exec_disconnect, linkLoss_of_linkUp hl]

/-! Who writes configuration, inputs, address and fault mark. -/

/-- Every operation but RESET, CONNECT and reception leaves these fields alone; those three are told
apart (R13, R28, R176). -/
theorem writers_effect {i : Instr} {s t : State} (he : Effect s i t) :
    t.cfg = s.cfg ∧ t.inputs = s.inputs ∧
    (t.devAddr = s.devAddr ∨ (i = .connect t.devAddr ∧ s.linkUp = false) ∨
      (i = .reset ∧ t.devAddr = s.cfg.devAddrDefault)) ∧
    (t.fault = s.fault ∨ (i = .reset ∧ t.fault = none) ∨
      (t.fault = some .rxOverflow ∧ s.linkUp = true ∧ ∃ bs, ¬ s.roomFor bs.length ∧
        (i = .rx bs ∨ (i.port = some .inbound ∧ encode i = bs)))) := by
  have hnone {u : State} {A F : Prop} (hcfg : u.cfg = s.cfg) (hin : u.inputs = s.inputs)
      (haddr : u.devAddr = s.devAddr) (hfault : u.fault = s.fault) :
      u.cfg = s.cfg ∧ u.inputs = s.inputs ∧ (u.devAddr = s.devAddr ∨ A) ∧ (u.fault = s.fault ∨ F) :=
    ⟨hcfg, hin, .inl haddr, .inl hfault⟩
  cases he with
  | receives i bs hbs =>
    rcases receive_cases bs s with ⟨-, hr⟩ | ⟨hl, hover, hr⟩ | ⟨-, -, hr⟩ <;> rw [hr]
    · exact hnone rfl rfl rfl rfl
    · refine ⟨rfl, rfl, .inl rfl, .inr (.inr ⟨rfl, hl, bs, fun hroom => ?_, hbs⟩)⟩
      obtain ⟨cap, hcap, hlt⟩ := hover
      have := hroom cap hcap
      omega
    · exact hnone (drain_cfg _) (drain_inputs _) (drain_devAddr _) (drain_fault _)
  | resets => exact ⟨rfl, rfl, .inr (.inr ⟨rfl, rfl⟩), .inr (.inl ⟨rfl, rfl⟩)⟩
  | opens addr hl => exact ⟨rfl, rfl, .inr (.inl ⟨rfl, hl⟩), .inl rfl⟩
  | closes i hclose =>
    cases hl : s.linkUp with
    | false => rw [linkLoss_of_linkDown hl]; exact hnone rfl rfl rfl rfl
    | true => rw [linkLoss_of_linkUp hl]; exact hnone rfl rfl rfl rfl
  | failsAtOnce i s' c hsub hl =>
    obtain ⟨timer, outstanding, rfl⟩ := hsub.prepared
    exact hnone (deliver_cfg ..) (deliver_inputs ..) (deliver_devAddr ..) (deliver_fault ..)
  | enqueues i s' c hsub hl hroom =>
    obtain ⟨timer, outstanding, rfl⟩ := hsub.prepared
    exact hnone (transmit_cfg _) (transmit_inputs _) (transmit_devAddr _) (transmit_fault _)
  | delivers origin o =>
    exact hnone (deliver_cfg ..) (deliver_inputs ..) (deliver_devAddr ..) (deliver_fault ..)
  | transmits =>
    exact hnone (transmit_cfg s) (transmit_inputs s) (transmit_devAddr s) (transmit_fault s)
  | takesMessage m =>
    exact hnone (onMessage_cfg m s) (onMessage_inputs m s) (onMessage_devAddr m s)
      (onMessage_fault m s)
  | reports o => exact hnone (kaDone_cfg o s) (kaDone_inputs o s) (kaDone_devAddr o s) (kaDone_fault o s)
  | answers | starts | stops | idles | waits => exact hnone rfl rfl rfl rfl

/-- Settles O57, by `writers_effect`; the one fault there is makes a set mark a kept one. -/
theorem onlyTheirWritersChangeThem : Obligations.OnlyTheirWritersChangeThem := by
  unfold Obligations.OnlyTheirWritersChangeThem
  intro i s t he
  obtain ⟨hcfg, hin, haddr, hfault⟩ := writers_effect (exec_effect he)
  refine ⟨hcfg, hin, fun hne => haddr.resolve_left hne, fun hset hreset => ?_, fun hclear hset => ?_⟩
  · rcases hfault with hsame | ⟨hr, -⟩ | ⟨hover, -⟩
    · exact hsame
    · exact absurd hr hreset
    · obtain ⟨f, hf⟩ := Option.ne_none_iff_exists'.1 hset
      cases f
      rw [hover, hf]
  · rcases hfault with hsame | ⟨-, hnone⟩ | ⟨-, hl, hbs⟩
    · exact absurd (hsame.trans hclear) hset
    · exact absurd hnone hset
    · exact ⟨hl, hbs⟩

end Sys2Proof.Machine
end

section
/-! The step (spec/20_memory.md R50, spec/60_exceptions.md R159): what it does with the oldest input. -/

namespace Sys2Proof.Machine

theorem step_of_no_input {s : State} (h : s.inputs = []) : step s = .next s := by
  rw [step, h]

theorem step_of_reject {s : State} {x : Input} {rest : List Input} {r : Reject}
    (h : s.inputs = x :: rest) (hd : decodeInput x = .reject r) :
    step s = .refused (.input r) := by
  simp only [step, h, hd]

theorem step_of_instr {s : State} {x : Input} {rest : List Input} {i : Instr}
    (h : s.inputs = x :: rest) (hd : decodeInput x = .instr i) (hwf : i.wf s.cfg = true) :
    step s = exec i { s with inputs := rest } := by
  simp only [step, h, hd, if_pos hwf]

theorem step_of_illFormed {s : State} {x : Input} {rest : List Input} {i : Instr}
    (h : s.inputs = x :: rest) (hd : decodeInput x = .instr i) (hwf : i.wf s.cfg = false) :
    step s = .refused (.input .illFormed) := by
  have hnot : ¬ i.wf s.cfg = true := by simp [hwf]
  simp only [step, h, hd, if_neg hnot]

/-- A step that completes had no input, or a well-formed one. -/
theorem step_next {s t : State} (h : step s = .next t) :
    t = s ∨ ∃ x rest i, s.inputs = x :: rest ∧ decodeInput x = .instr i ∧ i.wf s.cfg = true ∧
      exec i { s with inputs := rest } = .next t := by
  cases hin : s.inputs with
  | nil =>
    rw [step_of_no_input hin] at h
    cases h
    exact .inl rfl
  | cons x rest =>
    cases hd : decodeInput x with
    | reject r => rw [step_of_reject hin hd] at h; cases h
    | instr i =>
      cases hwf : i.wf s.cfg with
      | false => rw [step_of_illFormed hin hd hwf] at h; cases h
      | true =>
        rw [step_of_instr hin hd hwf] at h
        exact .inr ⟨x, rest, i, rfl, hd, hwf, h⟩

/-- Only what may come from outside gets past decoding (R159 e). -/
theorem fromOutside_of_decodeInput {x : Input} {i : Instr} (h : decodeInput x = .instr i) :
    i.fromOutside = true := by
  have hguard {j : Instr}
      (hj : (if j.fromOutside then Decoded.instr j else .reject .notFromOutside) = .instr i) :
      i.fromOutside = true := by
    split at hj <;> cases hj
    assumption
  cases x with
  | named j => exact hguard h
  | bits p bs =>
    rw [decodeInput] at h
    cases hd : decode p bs with
    | reject r => rw [hd] at h; cases h
    | instr j => rw [hd] at h; exact hguard h

/-- Settles O4. -/
theorem stepRunsDecodedInput : Obligations.StepRunsDecodedInput := by
  unfold Obligations.StepRunsDecodedInput
  exact fun s x rest i => step_of_instr

/-- The low four bits of an operation word's first byte are its code (R71). -/
theorem opCode_toNat (b : Byte) : (opCode b).toNat = b.toNat % 16 := by
  rw [opCode, BitVec.toNat_and]
  exact Nat.and_two_pow_sub_one_eq_mod b.toNat 4

/-- The codes from 0xA on are reserved. -/
theorem decodeOp_of_reserved {b : Byte} (args : List Byte) (h : 0xA ≤ b.toNat % 16) :
    decodeOp (b :: args) = .reject (.reservedOpCode (b.toNat % 16)) := by
  have hne (k : Nat) (hk : k < 0xA) : b.toNat % 16 ≠ k := by omega
  simp only [decodeOp, opCode_toNat, hne _, Nat.reduceLT, if_false]

/-- Settles O5: the three ways a step starts without performing anything, and `decodeOp_of_reserved`. -/
theorem stepStopsOnRejectedInput : Obligations.StepStopsOnRejectedInput := by
  unfold Obligations.StepStopsOnRejectedInput
  refine ⟨fun s => step_of_no_input, fun s x rest r => step_of_reject,
    fun s x rest i => step_of_illFormed, fun s b args rest hin hres => step_of_reject hin ?_⟩
  rw [decodeInput, decode, decodeOp_of_reserved args hres]

end Sys2Proof.Machine
end

section
/-! The invariant of a run (spec/10_state.md section 4, spec/44_keepalive.md R141, spec/42_reassembler.md
R107): its keepalive and buffer parts are kept by each shared operation, and the whole by every step. -/

namespace Sys2Proof.Machine

/-! The keepalive invariant. -/

theorem probes_transmit (s : State) :
    ((transmit s).queue.filter Command.isKeepalive).length =
      (s.queue.filter Command.isKeepalive).length := by
  simpa only [List.countP_map, Function.id_comp, ← List.countP_eq_length_filter] using
    congrArg (List.countP id) (map_transmit Command.isKeepalive (fun _ _ => rfl) s)

theorem keepaliveInv_transmit {s : State} (h : s.KeepaliveInv) : (transmit s).KeepaliveInv := by
  simpa only [State.KeepaliveInv, transmit_kaOutstanding, transmit_kaTimer, transmit_linkUp,
    transmit_kaEnabled, transmit_kaInterval, transmit_cfg, probes_transmit] using h

/-- KA_DONE establishes the invariant where no probe is left in the queue. -/
theorem keepaliveInv_kaDone (o : CmdOutcome) {s : State}
    (hprobes : s.linkUp = true → (s.queue.filter Command.isKeepalive).length = 0)
    (htimer : s.kaTimer = none) (hpos : s.kaEnabled = true → 1 ≤ s.kaInterval)
    (hwidth : s.kaInterval < 2 ^ s.cfg.kaIntervalW) : (kaDone o s).KeepaliveInv := by
  rw [kaDone_eq]
  refine ⟨nofun, hprobes, fun _ => rfl, ?_, hpos, hwidth⟩
  cases he : s.kaEnabled with
  | false => simp [htimer]
  | true => simpa using hpos he

/-- A Message ends the probe in flight, or leaves the probes as they are. -/
theorem keepaliveInv_onMessage (m : Message) {s : State} (hq : s.QueueInv) (h : s.KeepaliveInv) :
    (onMessage m s).KeepaliveInv := by
  rw [queueInv_iff] at hq
  obtain hq | ⟨hl, c, rest, hq, hc, -⟩ := hq
  · rw [onMessage_of_none_inFlight m (by simp [hq])]
    exact h
  · rw [onMessage_of_cons m hq hc]
    refine keepaliveInv_transmit ?_
    obtain ⟨hidle, hprobes, hdown, htimer, hpos, hwidth⟩ := h
    have hcount := hprobes hl
    rw [hq, List.filter_cons] at hcount
    cases horigin : c.origin with
    | caller hd =>
      have hnot : c.isKeepalive = false := by simp [Command.isKeepalive, horigin]
      rw [hnot] at hcount
      exact ⟨hidle, fun _ => hcount, hdown, htimer, hpos, hwidth⟩
    | keepalive =>
      have hprobe : c.isKeepalive = true := by simp [Command.isKeepalive, horigin]
      rw [if_pos hprobe, List.length_cons] at hcount
      have hout : s.kaOutstanding = true := by
        by_contra hnone
        rw [if_neg hnone] at hcount
        omega
      rw [if_pos hout] at hcount
      exact keepaliveInv_kaDone _ (s := { s with queue := rest }) (fun _ => by simpa using hcount)
        (hidle hout) hpos hwidth

/-- A wait that ends had no probe outstanding. -/
theorem outstanding_of_timer {s : State} {n : Nat} (h : s.KeepaliveInv) (ht : s.kaTimer = some n) :
    s.kaOutstanding = false := by
  obtain ⟨hidle, -⟩ := h
  by_contra hout
  rw [hidle (by simpa using hout)] at ht
  cases ht

/-! The sizes of the queue and its frames. -/

/-- The queue's part of the buffer invariant. -/
def queueFits (s : State) : Prop :=
  (∀ cap ∈ s.cfg.queueCap, s.queue.length ≤ cap) ∧ ∀ c ∈ s.queue, c.frame.length = 8

/-- It only speaks of the frames in the queue. -/
theorem queueFits_of_frames {s t : State} (hcfg : t.cfg = s.cfg)
    (hsub : (t.queue.map Command.frame).Sublist (s.queue.map Command.frame)) (h : queueFits s) :
    queueFits t := by
  obtain ⟨hcap, hframes⟩ := h
  refine ⟨fun cap hc => ?_, forall_frame_of_sublist (P := fun f => f.length = 8) hsub hframes⟩
  have hlen := hsub.length_le
  rw [List.length_map, List.length_map] at hlen
  exact hlen.trans (hcap cap (hcfg ▸ hc))

theorem queueFits_enqueue {s : State} {c : Command} (hroom : s.roomInQueue)
    (hc : c.frame.length = 8) (h : queueFits s) :
    queueFits (transmit { s with queue := s.queue ++ [c] }) := by
  refine queueFits_of_frames (s := { s with queue := s.queue ++ [c] }) (transmit_cfg _)
    (by rw [frames_transmit]) ?_
  obtain ⟨hcap, hframes⟩ := h
  refine ⟨fun cap hmem => ?_, fun d hd => ?_⟩
  · have hne : s.queue.length ≠ cap := fun heq => hroom (heq ▸ hmem)
    have hle := hcap cap hmem
    rw [List.length_append, List.length_singleton]
    omega
  · rcases List.mem_append.1 hd with hd | hd
    · exact hframes d hd
    · rw [List.mem_singleton.1 hd, hc]

/-- A Command submitted from outside carries a whole frame. -/
theorem Submits.length_frame {i : Instr} {s s' : State} {c : Command} (h : Submits s i s' c)
    (hi : i.fromOutside = true) : c.frame.length = 8 := by
  cases h with
  | kaFire | submit => cases hi
  | read | write | tick => rfl

/-! Every step. -/

theorem inv_drain {s : State} (hqueue : s.QueueInv) (hka : s.KeepaliveInv) (hl : s.linkUp = true)
    (hroom : ∀ cap ∈ s.cfg.rxBufCap, s.rxBuf.length ≤ cap) (hfits : queueFits s) : (drain s).Inv := by
  have hdrain : (drain s).QueueInv ∧ (drain s).KeepaliveInv := by
    refine drain_induction (P := fun u => u.QueueInv ∧ u.KeepaliveInv) (fun _ _ h _ => h)
      (fun u m len h _ => ?_) s ⟨hqueue, hka⟩
    obtain ⟨hq, hk⟩ := h
    exact ⟨queueInv_onMessage m hq,
      keepaliveInv_onMessage (s := { u with rxBuf := u.rxBuf.drop len }) m hq hk⟩
  obtain ⟨hqueue', hka'⟩ := hdrain
  refine ⟨hqueue', hka', decodeFrame_drain s, fun hdown => ?_, fun cap hcap => ?_, ?_⟩
  · rw [drain_linkUp, hl] at hdown
    cases hdown
  · exact (length_drain_rxBuf_le s).trans (hroom cap (by simpa using hcap))
  · exact queueFits_of_frames (drain_cfg s) (reception_drain s).frames hfits

theorem inv_receive {s : State} (bs : List Byte) (h : s.Inv) : (receive bs s).Inv := by
  rcases receive_cases bs s with ⟨-, hr⟩ | ⟨-, -, hr⟩ | ⟨hl, hroom, hr⟩ <;> rw [hr]
  · exact h
  · exact h
  · obtain ⟨hqueue, hka, -, -, -, hfits⟩ := h
    refine inv_drain (s := { s with rxBuf := s.rxBuf ++ bs }) hqueue hka hl (fun cap hcap => ?_) hfits
    rw [List.length_append]
    exact hroom cap hcap

theorem inv_linkLoss {s : State} (h : s.Inv) : (linkLoss s).Inv := by
  cases hl : s.linkUp with
  | false => rwa [linkLoss_of_linkDown hl]
  | true =>
    obtain ⟨-, ⟨-, hprobes, -, -, -, hwidth⟩, -⟩ := h
    have hgone : (s.kaOutstanding && !(s.queue.any Command.isKeepalive)) = false := by
      cases hout : s.kaOutstanding with
      | false => rfl
      | true =>
        have hone := hprobes hl
        rw [if_pos hout, List.length_eq_one_iff] at hone
        obtain ⟨c, hc⟩ := hone
        obtain ⟨hmem, hprobe⟩ := List.mem_filter.1 (hc ▸ List.mem_singleton_self c)
        rw [List.any_eq_true.2 ⟨c, hmem, hprobe⟩]
        rfl
    rw [linkLoss_of_linkUp hl, hgone]
    exact ⟨by simp [State.QueueInv], by simp [State.KeepaliveInv, hwidth],
      rfl, fun _ => rfl, by simp, by simp, by simp⟩

/-- A failure at once changes the keepalive only, where it is the keepalive's (spec/44_keepalive.md). -/
theorem inv_failsAtOnce {i : Instr} {s s' : State} {c : Command} (hsub : Submits s i s' c)
    (hi : i.fromOutside = true) (hl : s.linkUp = false) (h : s.Inv) :
    (deliver c.origin (.err .transportUnavailable) s').Inv := by
  cases hsub with
  | kaFire | submit => cases hi
  | read | write => exact h
  | tick n htimer hn =>
    obtain ⟨hqueue, ⟨-, -, -, -, hpos, hwidth⟩, hbuf⟩ := h
    refine ⟨?_, ?_, ?_⟩
    · simpa [State.QueueInv] using hqueue
    · refine keepaliveInv_kaDone _ (fun hup => ?_) rfl hpos hwidth
      rw [hl] at hup
      cases hup
    · simpa [State.BufferInv] using hbuf

/-- A new Command: the queue invariant by the gate, and a new probe is the only one. -/
theorem inv_enqueues {i : Instr} {s s' : State} {c : Command} (hsub : Submits s i s' c)
    (hi : i.fromOutside = true) (hl : s.linkUp = true) (hroom : s.roomInQueue) (h : s.Inv) :
    (transmit { s' with queue := s.queue ++ [c] }).Inv := by
  have hframe := hsub.length_frame hi
  have hqueued := hsub.queued
  obtain ⟨hqueue, hka, hwait, hdown, hcap, hfits⟩ := h
  have hkeep : ({ s' with queue := s.queue ++ [c] } : State).KeepaliveInv := by
    cases hsub with
    | kaFire | submit => cases hi
    | read | write =>
      obtain ⟨hidle, hprobes, hrest⟩ := hka
      exact ⟨hidle, by simpa [Command.isKeepalive] using hprobes, hrest⟩
    | tick n htimer hn =>
      have hout := outstanding_of_timer hka htimer
      obtain ⟨-, hprobes, -, -, hpos, hwidth⟩ := hka
      have hnone := hprobes hl
      rw [hout] at hnone
      refine ⟨fun _ => rfl, fun _ => ?_, fun hd => ?_, rfl, hpos, hwidth⟩
      · rw [List.filter_append, List.length_append, hnone]
        rfl
      · rw [hl] at hd
        cases hd
  obtain ⟨timer, outstanding, rfl⟩ := hsub.prepared
  refine ⟨?_, keepaliveInv_transmit hkeep, ?_, ?_, ?_, ?_⟩
  · exact queueInv_enqueue (s := { s with kaTimer := timer, kaOutstanding := outstanding })
      hqueue hl hqueued
  · rwa [transmit_rxBuf]
  · simpa using hdown
  · simpa using hcap
  · exact queueFits_enqueue (s := { s with kaTimer := timer, kaOutstanding := outstanding })
      hroom hframe hfits

theorem inv_effect {i : Instr} {s t : State} (hi : i.fromOutside = true) (hwf : i.wf s.cfg = true)
    (h : s.Inv) (he : Effect s i t) : t.Inv := by
  cases he with
  | answers | idles => exact h
  | receives i bs hbs => exact inv_receive bs h
  | resets =>
    have hwidth : 0 < 2 ^ s.cfg.kaIntervalW := Nat.two_pow_pos _
    exact ⟨by simp [State.QueueInv, State.resetUnder],
      by simp [State.KeepaliveInv, State.resetUnder, hwidth],
      by simp [State.BufferInv, State.resetUnder, decodeFrame, frameLength]⟩
  | opens addr hl =>
    obtain ⟨hqueue, ⟨hidle, -, hout, hka⟩, -, -, -, hfits⟩ := h
    have hempty := queue_nil_of_linkDown hqueue hl
    have hnone := hout hl
    refine ⟨by simp [State.QueueInv, hempty], ⟨hidle, ?_, nofun, hka⟩, rfl, nofun, by simp, hfits⟩
    simp [hempty, hnone]
  | closes i hclose => exact inv_linkLoss h
  | failsAtOnce i s' c hsub hl => exact inv_failsAtOnce hsub hi hl h
  | enqueues i s' c hsub hl hroom => exact inv_enqueues hsub hi hl hroom h
  | starts interval observer hpos =>
    obtain ⟨hqueue, ⟨hidle, hprobes, hdown, -⟩, hbuf⟩ := h
    have hfits : interval < 2 ^ s.cfg.kaIntervalW := by
      simpa [Instr.wf, Config.intervalFits] using hwf
    have hone : 1 ≤ interval := by omega
    refine ⟨hqueue, ⟨fun hset => ?_, hprobes, hdown, ?_, fun _ => hone, hfits⟩, hbuf⟩
    · exact (if_pos hset).trans (hidle hset)
    · by_cases hset : s.kaOutstanding = true
      · simp [hset, hidle hset]
      · simp [hset, hone]
  | stops =>
    obtain ⟨hqueue, ⟨-, hprobes, hdown, -, -, hwidth⟩, hbuf⟩ := h
    exact ⟨hqueue, ⟨fun _ => rfl, hprobes, hdown, rfl, nofun, hwidth⟩, hbuf⟩
  | waits n htimer hn =>
    obtain ⟨hqueue, hka, hbuf⟩ := h
    have hout := outstanding_of_timer hka htimer
    obtain ⟨-, hprobes, hdown, hwait, hpos, hwidth⟩ := hka
    refine ⟨hqueue, ⟨fun hset => ?_, hprobes, hdown, ?_, hpos, hwidth⟩, hbuf⟩
    · rw [hout] at hset
      cases hset
    · simp only [htimer, Option.all_some, Bool.and_eq_true, decide_eq_true_eq] at hwait ⊢
      obtain ⟨⟨henabled, hmin⟩, hmax⟩ := hwait
      exact ⟨⟨henabled, by omega⟩, by omega⟩
  | delivers | transmits | takesMessage | reports => cases hi

/-- Settles O55: a step that completes performs an operation from outside, and `inv_effect`. -/
theorem everyStepKeepsInvariant : Obligations.EveryStepKeepsInvariant := by
  unfold Obligations.EveryStepKeepsInvariant
  intro s t hinv hstep
  obtain rfl | ⟨x, rest, i, -, hd, hwf, he⟩ := step_next hstep
  · exact hinv
  · exact inv_effect (s := { s with inputs := rest }) (fromOutside_of_decodeInput hd) hwf hinv
      (exec_effect he)

/-- Settles O3: at reset nothing is pending, outstanding or buffered. -/
theorem resetStateMeetsInvariant : Obligations.ResetStateMeetsInvariant := by
  unfold Obligations.ResetStateMeetsInvariant
  decide

end Sys2Proof.Machine
end

section
/-! Decoding and encoding (spec/30_encoding.md sections 1 and 2): each encoding is decoded again, on the
line no bit is lost, and nothing decodes to an operation of another port. -/

namespace Sys2Proof.Machine

/-! Numbers as bytes. -/

theorem be_natBytesFuel {fuel n : Nat} (h : n ≤ fuel) : be (natBytesFuel fuel n) = n := by
  induction fuel generalizing n with
  | zero =>
    have hzero : n = 0 := by omega
    rw [hzero]
    rfl
  | succ fuel ih =>
    rw [natBytesFuel]
    split
    · rename_i hzero
      rw [hzero]
      rfl
    · rw [be_append_singleton, ih (by omega), BitVec.toNat_ofNat]
      omega

/-- A number is read back from its bytes (log 2). -/
@[simp] theorem be_natBytes (n : Nat) : be (natBytes n) = n := be_natBytesFuel (Nat.le_refl n)

/-! The outbound line (R61, R62, R69). -/

/-- The fields of a built frame, read back from its bytes. -/
theorem fields_of_buildFrame (addr func : Byte) (reg value : Half) :
    let f := buildFrame addr func reg value
    byteAt f 0 = addr ∧ byteAt f 1 = func ∧ halfAt f 2 = reg ∧ halfAt f 4 = value := by
  intro f
  rw [show f = _ from buildFrame_eq addr func reg value]
  exact ⟨rfl, rfl, join_hi8_lo8 reg, join_hi8_lo8 value⟩

/-- What a built frame is read as: an RDREQ or a WRREQ by its function and count, else a PROBE. -/
theorem decodeOutbound_buildFrame (addr func : Byte) (reg value : Half) :
    decodeOutbound (buildFrame addr func reg value) =
      if func = 0x03 ∧ value = 0x0001 then .instr (.rdreq addr reg)
      else if func = 0x06 then .instr (.wrreq addr reg value)
      else .instr (.probe addr func reg value) := by
  obtain ⟨haddr, hfunc, hreg, hvalue⟩ := fields_of_buildFrame addr func reg value
  have hverified : (buildFrame addr func reg value).length = 8 ∧
      computeCRC (slice (buildFrame addr func reg value) 0 6) =
        halfAt (buildFrame addr func reg value) 6 := by
    rw [slice_zero]
    exact ⟨rfl, computeCRC_buildFrame addr func reg value⟩
  rw [decodeOutbound, if_pos hverified, haddr, hfunc, hreg, hvalue]

/-- Eight bytes whose CRC verifies are a built frame (R93). -/
theorem eq_buildFrame_of_verified {bs : List Byte} (hlen : bs.length = 8)
    (hcrc : computeCRC (slice bs 0 6) = halfAt bs 6) :
    bs = buildFrame (byteAt bs 0) (byteAt bs 1) (halfAt bs 2) (halfAt bs 4) := by
  match bs, hlen with
  | [b0, b1, b2, b3, b4, b5, b6, b7], _ =>
    have hverify : computeCRC [b0, b1, b2, b3, b4, b5] = join b6 b7 := hcrc
    have hreg : halfAt [b0, b1, b2, b3, b4, b5, b6, b7] 2 = join b2 b3 := rfl
    have hvalue : halfAt [b0, b1, b2, b3, b4, b5, b6, b7] 4 = join b4 b5 := rfl
    rw [hreg, hvalue, buildFrame_eq]
    simp only [hi8_join, lo8_join]
    change _ = [b0, b1, b2, b3, b4, b5, hi8 (computeCRC [b0, b1, b2, b3, b4, b5]),
      lo8 (computeCRC [b0, b1, b2, b3, b4, b5])]
    rw [hverify, hi8_join, lo8_join]

/-- What decodes as an outbound frame is the encoding of what it decodes to. -/
theorem encode_of_decodeOutbound {bs : List Byte} {i : Instr} (h : decodeOutbound bs = .instr i) :
    i.port = some .outbound ∧ encode i = bs := by
  by_cases hverified : bs.length = 8 ∧ computeCRC (slice bs 0 6) = halfAt bs 6
  · obtain ⟨hlen, hcrc⟩ := hverified
    have hbs := eq_buildFrame_of_verified hlen hcrc
    rw [hbs] at h ⊢
    rw [decodeOutbound_buildFrame] at h
    split at h
    · rename_i hread
      obtain ⟨hfunc, hcount⟩ := hread
      cases h
      rw [hfunc, hcount]
      exact ⟨rfl, rfl⟩
    · split at h
      · rename_i hfunc
        cases h
        rw [hfunc]
        exact ⟨rfl, rfl⟩
      · cases h
        exact ⟨rfl, rfl⟩
  · rw [decodeOutbound, if_neg hverified] at h
    cases h

/-! The inbound line (R63, R64). -/

theorem decodeInbound_rdrspBytes (addr : Byte) (data : List Byte) (crc : Half)
    (hlen : data.length ≤ 255) :
    decodeInbound (rdrspBytes addr data crc) = .instr (.rdrsp addr data crc) := by
  have htotal : (rdrspBytes addr data crc).length = 5 + data.length := by
    simp [rdrspBytes, halfBytes]
    omega
  have hframe : frameLength (rdrspBytes addr data crc) = some (rdrspBytes addr data crc).length := by
    rw [htotal]
    exact frameLength_of_read addr data (halfBytes crc) hlen
  have hfunc : byteAt (rdrspBytes addr data crc) 1 ≠ 0x06 := by
    change (0x03 : Byte) ≠ 0x06
    decide
  have hend : 5 + data.length - 2 = ([addr, 0x03, BitVec.ofNat 8 data.length] ++ data).length := by
    simp
    omega
  have hdata : slice (rdrspBytes addr data crc) 3 (5 + data.length - 2) = data := by
    rw [slice, hend, rdrspBytes, List.take_left]
    rfl
  have hcrc : halfAt (rdrspBytes addr data crc) (5 + data.length - 2) = crc := by
    have hcarried := join_byteAt_halfBytes
      ([addr, 0x03, BitVec.ofNat 8 data.length] ++ data) [] crc
    rw [List.append_nil] at hcarried
    rw [hend]
    exact hcarried
  rw [decodeInbound, if_pos hframe, if_neg hfunc, htotal, hdata, hcrc]
  rfl

theorem decodeInbound_wrrspBytes (addr : Byte) (reg value crc : Half) :
    decodeInbound (wrrspBytes addr reg value crc) = .instr (.wrrsp addr reg value crc) := by
  change Decoded.instr (.wrrsp addr (join (hi8 reg) (lo8 reg)) (join (hi8 value) (lo8 value))
    (join (hi8 crc) (lo8 crc))) = _
  simp only [join_hi8_lo8]

/-- Bytes of exactly the length they declare are one of the two inbound frames. -/
theorem inbound_frame_of_length {bs : List Byte} (h : frameLength bs = some bs.length) :
    (∃ addr reg value crc, bs = wrrspBytes addr reg value crc) ∨
      ∃ addr data crc, data.length ≤ 255 ∧ bs = rdrspBytes addr data crc := by
  rw [frameLength_eq_some] at h
  obtain ⟨-, ⟨hfunc, hlen⟩ | ⟨hfunc, hthree, hlen⟩⟩ := h
  · left
    match bs, hlen with
    | [b0, b1, b2, b3, b4, b5, b6, b7], _ =>
      have hsix : b1 = 0x06 := hfunc
      refine ⟨b0, join b2 b3, join b4 b5, join b6 b7, ?_⟩
      simp [wrrspBytes, halfBytes, hsix]
  · right
    match bs, hthree with
    | b0 :: b1 :: b2 :: rest, _ =>
      have hsix : b1 = 0x03 := hfunc
      have hb2 : b2.toNat < 256 := b2.isLt
      have hrest : rest.length = b2.toNat + 2 := by
        simp only [List.length_cons] at hlen
        change rest.length + 1 + 1 + 1 = 3 + b2.toNat + 2 at hlen
        omega
      have hdata : (rest.take b2.toNat).length = b2.toNat := by
        rw [List.length_take]
        omega
      obtain ⟨x, y, hxy⟩ : ∃ x y, rest.drop b2.toNat = [x, y] :=
        List.length_eq_two.1 (by rw [List.length_drop]; omega)
      refine ⟨b0, rest.take b2.toNat, join x y, by omega, ?_⟩
      rw [rdrspBytes, hdata, halfBytes, hi8_join, lo8_join, ← hxy, BitVec.ofNat_toNat,
        BitVec.setWidth_eq, List.append_assoc, List.take_append_drop, hsix]
      rfl

/-- What decodes on the inbound line is the encoding of a frame, or a chunk of just those bytes. -/
theorem encode_of_decodeInbound {bs : List Byte} {i : Instr} (h : decodeInbound bs = .instr i) :
    (i.port = some .inbound ∧ encode i = bs) ∨ i = .rx bs := by
  by_cases hframe : frameLength bs = some bs.length
  · obtain ⟨addr, reg, value, crc, rfl⟩ | ⟨addr, data, crc, hlen, rfl⟩ :=
      inbound_frame_of_length hframe
    · rw [decodeInbound_wrrspBytes] at h
      cases h
      exact .inl ⟨rfl, rfl⟩
    · rw [decodeInbound_rdrspBytes _ _ _ hlen] at h
      cases h
      exact .inl ⟨rfl, rfl⟩
  · rw [decodeInbound, if_neg hframe] at h
    cases h
    exact .inr rfl

/-! The operation port (R71, log 2). -/

/-- An operation word is read back with its operands. -/
theorem decodeOp_encode {i : Instr} (h : i.port = some .operation) :
    decodeOp (encode i) = .instr i := by
  cases i with
  | reset | disconnect | transportFail | kaStop | tick | connect | rx => rfl
  | read reg hd =>
    change Decoded.instr (.read (join (hi8 reg) (lo8 reg)) (be (natBytes hd))) = _
    rw [join_hi8_lo8, be_natBytes]
  | write reg value hd =>
    change Decoded.instr (.write (join (hi8 reg) (lo8 reg)) (join (hi8 value) (lo8 value))
      (be (natBytes hd))) = _
    rw [join_hi8_lo8, join_hi8_lo8, be_natBytes]
  | kaStart interval observer =>
    have hword : decodeOp (encode (.kaStart interval observer)) =
        .instr (.kaStart (be (natBytes interval)) observer) := by
      cases observer <;> rfl
    rw [hword, be_natBytes]
  | _ => cases h

/-- If this is an instruction, then one of the port. -/
def standsOn (p : Port) (d : Decoded) : Prop := ∀ i, d = .instr i → i.port = some p

theorem standsOn_guarded {p : Port} {c : Prop} [Decidable c] {i : Instr} {r : Reject}
    (h : i.port = some p) : standsOn p (if c then .instr i else .reject r) := by
  intro j hj
  split at hj <;> cases hj
  exact h

theorem standsOn_ite {p : Port} {c : Prop} [Decidable c] {d e : Decoded} (hd : standsOn p d)
    (he : standsOn p e) : standsOn p (if c then d else e) := by
  split
  · exact hd
  · exact he

/-- An operation word stands for one of the ten events. -/
theorem standsOn_decodeOp (bs : List Byte) : standsOn .operation (decodeOp bs) := by
  cases bs with
  | nil => nofun
  | cons b args =>
    unfold decodeOp
    iterate 10 refine standsOn_ite (standsOn_guarded rfl) ?_
    nofun

/-! The obligations. -/

/-- Settles O7, port by port. -/
theorem decodeInvertsEncode : Obligations.DecodeInvertsEncode := by
  unfold Obligations.DecodeInvertsEncode
  refine ⟨fun c i p hwf hport hprobe => ?_, fun addr reg value => ⟨?_, ?_⟩⟩
  · cases p with
    | operation => exact decodeOp_encode hport
    | inbound =>
      cases i with
      | rdrsp addr data crc =>
        have hlen : data.length ≤ 255 := by simpa [Instr.wf] using hwf
        exact decodeInbound_rdrspBytes addr data crc hlen
      | wrrsp addr reg value crc => exact decodeInbound_wrrspBytes addr reg value crc
      | _ => cases hport
    | outbound =>
      cases i with
      | rdreq addr reg => exact decodeOutbound_buildFrame addr 0x03 reg 0x0001
      | wrreq addr reg value =>
        refine (decodeOutbound_buildFrame addr 0x06 reg value).trans ?_
        rw [if_neg (fun hread => absurd hread.1 (by decide)), if_pos rfl]
      | probe addr func reg value =>
        obtain ⟨hwrite, hread⟩ := hprobe addr func reg value rfl
        refine (decodeOutbound_buildFrame addr func reg value).trans ?_
        rw [if_neg hread, if_neg hwrite]
      | _ => cases hport
  · refine (decodeOutbound_buildFrame addr 0x06 reg value).trans ?_
    rw [if_neg (fun hread => absurd hread.1 (by decide)), if_pos rfl]
  · exact decodeOutbound_buildFrame addr 0x03 reg 0x0001

/-- Settles O8: `encode_of_decodeOutbound` and `encode_of_decodeInbound`. -/
theorem encodeInvertsDecodeOnLine : Obligations.EncodeInvertsDecodeOnLine := by
  unfold Obligations.EncodeInvertsDecodeOnLine
  refine ⟨fun bs i h => ?_, fun bs i h => ?_⟩
  · exact (encode_of_decodeOutbound h).2
  · exact (encode_of_decodeInbound h).imp_left And.right

/-- Settles O6: what decodes on a port belongs to it, and what does not come from outside is refused. -/
theorem internalOperationsCannotEnter : Obligations.InternalOperationsCannotEnter := by
  unfold Obligations.InternalOperationsCannotEnter
  refine ⟨fun p bs i h => ?_, fun x i h hport => ?_, fun s i rest hin hport => ?_⟩
  · cases p with
    | operation => exact .inl (standsOn_decodeOp bs i h)
    | inbound => exact (encode_of_decodeInbound h).imp And.left fun hrx => ⟨rfl, hrx⟩
    | outbound => exact .inl (encode_of_decodeOutbound h).1
  · have hout := fromOutside_of_decodeInput h
    rw [Instr.fromOutside, hport] at hout
    cases hout
  · refine step_of_reject hin ?_
    rw [decodeInput, Instr.fromOutside, hport]
    rfl

/-- Settles O9: the nine words are decoded by evaluation. -/
theorem wordsDecodeAsWritten : Obligations.WordsDecodeAsWritten := by
  unfold Obligations.WordsDecodeAsWritten
  decide +kernel

end Sys2Proof.Machine
end

section
/-! The correlator's operations, whole (spec/43_correlator.md): SUBMIT, DELIVER, ON_MESSAGE and CONNECT
in their cases, a valid response for the head of the queue, and three Commands in a row. -/

namespace Sys2Proof.Machine

section Submit
variable {s : State} {frame : List Byte} {kind : CmdKind} {reg value : Half} {origin : Origin}

theorem exec_submit : exec (.submit frame kind reg value origin) s =
    submit frame kind reg value origin s := rfl

theorem submit_of_linkDown (hl : s.linkUp = false) :
    submit frame kind reg value origin s =
      .next (deliver origin (.err .transportUnavailable) s) := by
  rw [submit, if_pos hl]

/-- A full finite queue takes no Command (D8). -/
theorem submit_of_full (hl : s.linkUp = true) (hfull : s.cfg.queueCap = some s.queue.length) :
    submit frame kind reg value origin s = .refused .queueFull := by
  have hopen : ¬ s.linkUp = false := by simp [hl]
  rw [submit, if_neg hopen, if_pos ((queueFull_eq_true s).2 hfull)]

end Submit

/-- TRANSMIT writes queue and output only. -/
theorem transmit_frame (s : State) :
    transmit s = { s with queue := (transmit s).queue, out := (transmit s).out } := by
  cases hb : s.busy with
  | true => rw [transmit_of_busy hb]
  | false => rw [transmit_promotes ((busy_eq_false s).1 hb)]

/-- Settles O42: SUBMIT's three cases, and what TRANSMIT after the append can change. -/
theorem submitQueuesOrFailsAtOnce : Obligations.SubmitQueuesOrFailsAtOnce := by
  unfold Obligations.SubmitQueuesOrFailsAtOnce
  intro s frame kind reg value origin
  refine ⟨fun hl => ?_, fun hl hfull => ?_, fun hl hroom => ?_⟩
  · rw [exec_submit, submit_of_linkDown hl]
    rfl
  · rw [exec_submit, submit_of_full hl hfull]
  · rw [exec_submit, submit_of_room hl hroom]
    refine ⟨rfl, _, rfl, ?_, transmit_frame _, ?_, ?_⟩
    · obtain ⟨es, hes, -⟩ := emits_transmit { s with queue := s.queue ++
        [{ kind := kind, reg := reg, value := value, frame := frame, origin := origin,
           st := .queued }] }
      exact ⟨es, hes⟩
    · rw [map_transmit Command.origin (fun _ _ => rfl), List.map_append]
      rfl
    · rw [frames_transmit, List.map_append]
      rfl

/-- Settles O39. -/
theorem deliverRoutesTheOutcome : Obligations.DeliverRoutesTheOutcome := by
  unfold Obligations.DeliverRoutesTheOutcome
  exact fun s h o => ⟨rfl, rfl, _, rfl⟩

/-- Settles O43: the Command in flight is the one `takeInFlight` finds. -/
theorem messageResolvesTheCommandInFlight : Obligations.MessageResolvesTheCommandInFlight := by
  unfold Obligations.MessageResolvesTheCommandInFlight
  refine ⟨fun s m before after c hq hbefore hc => ⟨_, rfl, ?_, _, rfl⟩, fun s m hnone => ?_⟩
  · have htake : takeInFlight s.queue = some (c, before ++ after) :=
      (takeInFlight_eq_some _ _ _).2 ⟨before, after, hq, rfl, hbefore, hc⟩
    rw [exec_onMessage, exec_transmit, onMessage, htake]
  · rw [exec_onMessage, onMessage_of_none_inFlight m hnone]
    rfl

/-- Settles O44. -/
theorem connectOpensAnEmptySession : Obligations.ConnectOpensAnEmptySession := by
  unfold Obligations.ConnectOpensAnEmptySession
  refine fun s addr => ⟨fun hl => ?_, fun hl => ?_⟩
  · rw [exec_connect, hl]
    rfl
  · rw [exec_connect, hl]
    rfl

/-! A valid response (R121). -/

/-- A valid frame into an empty buffer resolves a caller's Command in flight with its value, and the next
one is sent. -/
theorem exec_rx_resolves_head {s : State} {c : Command} {rest : List Command} {h : Handle}
    {f : List Byte} {m : Message} (hl : s.linkUp = true) (hb : s.rxBuf = [])
    (hr : s.roomFor f.length) (hdec : decodeFrame f = .message m f.length)
    (hq : s.queue = c :: rest) (hc : c.st = .inFlight) (ho : c.origin = .caller h)
    (hrest : ∀ d ∈ rest, d.st = .queued) :
    exec (.rx f) s = .next { s with
      queue := promoteHead rest
      out := s.out ++ [.resolve h (.ok m.value)] ++ rest.head?.toList.map fun d => .tx d.frame } := by
  rw [exec_rx_good_frame hl hb hr hdec, exec_onMessage, onMessage_of_head m hq hc ho,
    transmit_promotes hrest]

/-- Settles O37: both response rows are RX of a frame with its own CRC, which resolves the head. -/
theorem responseResolvesHeadAndSendsNext : Obligations.ResponseResolvesHeadAndSendsNext := by
  unfold Obligations.ResponseResolvesHeadAndSendsNext
  intro s c rest h hl hb hq hc ho hrest
  refine ⟨fun addr data hlen hroom => ?_, fun addr reg value hroom => ?_⟩
  · have hframe : decodeFrame (withCrc ([addr, 0x03, BitVec.ofNat 8 data.length] ++ data) ++ []) = _ :=
      decodeFrame_readResponse addr data [] hlen
    have htotal : (withCrc ([addr, 0x03, BitVec.ofNat 8 data.length] ++ data)).length =
        5 + data.length := by
      rw [length_withCrc, List.length_append, List.length_cons, List.length_cons, List.length_cons,
        List.length_nil]
      omega
    rw [List.append_nil, ← htotal] at hframe
    rw [← htotal] at hroom
    exact exec_rx_resolves_head hl hb hroom hframe hq hc ho hrest
  · obtain ⟨m, hvalue, hdec⟩ := decodeFrame_encWrFrame addr reg value
    rw [← hvalue]
    exact exec_rx_resolves_head (f := encWrFrame addr reg value) hl hb hroom hdec hq hc ho hrest

/-! Three Commands in a row (R128). -/

theorem execAll_cons_of_next {i : Instr} {rest : List Instr} {s t : State}
    (h : exec i s = .next t) : execAll (i :: rest) s = execAll rest t := by
  simp only [execAll, h]

/-- A list of operations performed one by one. -/
theorem execAll_of_next {i : Instr} {rest : List Instr} {s t : State}
    {o : Host.Outcome State Fault Refusal} (h : exec i s = .next t) (hrest : execAll rest t = o) :
    execAll (i :: rest) s = o :=
  (execAll_cons_of_next h).trans hrest

/-- Settles O46: three submissions, the last two behind the first, and three responses, each for the
Command then at the head. -/
theorem threeCommandsResolveInOrder : Obligations.ThreeCommandsResolveInOrder := by
  unfold Obligations.ThreeCommandsResolveInOrder
  intro s r1 r2 v2 r3 h1 h2 h3 f1 f2 f3 m1 m2 m3 hl hq hb hqueue hrx hd1 hd2 hd3
  have hplace {u : State} (hu : u.cfg = s.cfg) : u.roomInQueue := by
    rw [State.roomInQueue, hu, hqueue]
    nofun
  have hroom {u : State} (n : Nat) (hu : u.cfg = s.cfg) : u.roomFor n := by
    intro cap hcap
    rw [hu, hrx] at hcap
    cases hcap
  refine execAll_of_next ((exec_read r1 h1 _).trans (submit_of_queue_nil hl (hplace rfl) hq)) ?_
  refine execAll_of_next ((exec_write r2 v2 h2 _).trans (submit_of_busy hl (hplace rfl) rfl)) ?_
  refine execAll_of_next ((exec_read r3 h3 _).trans (submit_of_busy hl (hplace rfl) rfl)) ?_
  refine execAll_of_next (exec_rx_resolves_head hl hb (hroom _ rfl) hd1 rfl rfl rfl (by simp)) ?_
  refine execAll_of_next (exec_rx_resolves_head hl hb (hroom _ rfl) hd2 rfl rfl rfl (by simp)) ?_
  refine execAll_of_next (exec_rx_resolves_head hl hb (hroom _ rfl) hd3 rfl rfl rfl (by simp)) ?_
  simp [execAll, promoteHead, hq]

end Sys2Proof.Machine
end

section
/-! The keepalive's operations, whole (spec/44_keepalive.md R136 to R140), and its cadence on an idle
session (R143). -/

namespace Sys2Proof.Machine

/-! KA_START, KA_STOP, KA_DONE. -/

/-- With no probe outstanding the wait starts at once. -/
theorem exec_kaStart_of_idle {interval : Nat} (observer : Bool) {s : State} (hpos : interval ≠ 0)
    (hout : s.kaOutstanding = false) : exec (.kaStart interval observer) s = .next
      { s with kaEnabled := true, kaInterval := interval, kaObserver := observer,
               kaTimer := some interval } := by
  have hidle : ¬ s.kaOutstanding = true := by simp [hout]
  rw [exec_kaStart_of_pos observer s hpos, if_neg hidle]

/-- Settles O50: with a probe outstanding nothing is armed. -/
theorem keepaliveStartsAndStops : Obligations.KeepaliveStartsAndStops := by
  unfold Obligations.KeepaliveStartsAndStops
  refine ⟨fun s observer => rfl, fun s interval observer hpos => ⟨exec_kaStart_of_idle observer hpos,
    fun hout => ?_⟩, fun s => rfl⟩
  rw [exec_kaStart_of_pos observer s hpos, if_pos hout]

/-- Settles O53: `kaDone_eq`. -/
theorem keepaliveReportsAndRearms : Obligations.KeepaliveReportsAndRearms := by
  unfold Obligations.KeepaliveReportsAndRearms
  exact fun s o => congrArg Host.Outcome.next (kaDone_eq o s)

/-! KA_FIRE (R139) and TICK (R138). -/

theorem exec_kaFire (s : State) : exec .kaFire s =
    submit (encProbeFrame s.cfg s.devAddr) .probe s.cfg.kaReg s.cfg.kaValue .keepalive
      { s with kaOutstanding := true } := rfl

/-- On an idle session the probe goes out at once. -/
theorem exec_kaFire_of_queue_nil {s : State} (hl : s.linkUp = true) (hroom : s.roomInQueue)
    (hq : s.queue = []) : exec .kaFire s = .next
      { s with
        kaOutstanding := true
        queue := [{ kind := .probe, reg := s.cfg.kaReg, value := s.cfg.kaValue,
                    frame := encProbeFrame s.cfg s.devAddr, origin := .keepalive, st := .inFlight }]
        out := s.out ++ [.tx (encProbeFrame s.cfg s.devAddr)] } :=
  (exec_kaFire s).trans (submit_of_queue_nil (s := { s with kaOutstanding := true }) hl hroom hq)

/-- Settles O52: SUBMIT's cases for the probe, and KA_DONE forgets that it was outstanding. -/
theorem keepaliveFiresAProbe : Obligations.KeepaliveFiresAProbe := by
  unfold Obligations.KeepaliveFiresAProbe
  refine ⟨fun s => ⟨?_, fun hl hroom hbusy => ?_, fun hl hfull => ?_, fun hl => ?_⟩,
    by decide +kernel⟩
  · exact exec_kaFire_of_queue_nil
  · exact submit_of_busy (s := { s with kaOutstanding := true }) hl hroom hbusy
  · exact submit_of_full (s := { s with kaOutstanding := true }) hl hfull
  · have hfail : exec .kaFire s = exec (.kaDone (.err .transportUnavailable)) s := by
      rw [exec_kaFire, submit_of_linkDown (s := { s with kaOutstanding := true }) hl]
      change Host.Outcome.next (kaDone _ { s with kaOutstanding := true }) = .next (kaDone _ s)
      rw [kaDone_eq, kaDone_eq]
    exact ⟨hfail, _, hfail⟩

/-- A wait that ends on an idle session sends the probe. -/
theorem exec_tick_fires {s : State} {n : Nat} (h : s.kaTimer = some n) (hn : n ≤ s.cfg.tickMs)
    (hl : s.linkUp = true) (hroom : s.roomInQueue) (hq : s.queue = []) : exec .tick s = .next
      { s with
        kaTimer := none
        kaOutstanding := true
        queue := [{ kind := .probe, reg := s.cfg.kaReg, value := s.cfg.kaValue,
                    frame := encProbeFrame s.cfg s.devAddr, origin := .keepalive, st := .inFlight }]
        out := s.out ++ [.tx (encProbeFrame s.cfg s.devAddr)] } :=
  (exec_tick_of_le h hn).trans
    (exec_kaFire_of_queue_nil (s := { s with kaTimer := none }) hl hroom hq)

/-- Settles O51: TICK's three cases, and the last one on an idle session. -/
theorem tickCountsTheWaitDown : Obligations.TickCountsTheWaitDown := by
  unfold Obligations.TickCountsTheWaitDown
  exact fun s => ⟨exec_tick_of_none, fun n => exec_tick_of_lt, fun n => exec_tick_of_le,
    fun n => exec_tick_fires⟩

/-! The cadence (R143). -/

theorem execAll_append_of_next {before : List Instr} (after : List Instr) {s t : State}
    (h : execAll before s = .next t) : execAll (before ++ after) s = execAll after t := by
  induction before generalizing s with
  | nil => cases h; rfl
  | cons i before ih =>
    rw [List.cons_append]
    simp only [execAll] at h ⊢
    cases he : exec i s with
    | next u => rw [he] at h; exact ih h
    | fault r => rw [he] at h; cases h
    | refused r => rw [he] at h; cases h

/-- Ticks that stand for less than the wait only count it down. -/
theorem execAll_ticks_of_lt {s : State} {n : Nat} (k : Nat) (h : s.kaTimer = some n)
    (hn : k * s.cfg.tickMs < n) : execAll (List.replicate k .tick) s =
      .next { s with kaTimer := some (n - k * s.cfg.tickMs) } := by
  induction k generalizing s n with
  | zero => simp [execAll, ← h]
  | succ k ih =>
    rw [Nat.succ_mul] at hn ⊢
    rw [List.replicate_succ, execAll_cons_of_next (exec_tick_of_lt h (by omega)),
      ih (s := { s with kaTimer := some (n - s.cfg.tickMs) }) rfl (by simp only; omega)]
    simp only [Nat.sub_sub, Nat.add_comm (k * s.cfg.tickMs)]

/-- Without a wait any number of ticks does nothing. -/
theorem execAll_ticks_of_none {s : State} (k : Nat) (h : s.kaTimer = none) :
    execAll (List.replicate k .tick) s = .next s := by
  induction k with
  | zero => rfl
  | succ k ih => rw [List.replicate_succ, execAll_cons_of_next (exec_tick_of_none h), ih]

/-- KA_START and then ticks that stand for less than the interval. -/
theorem execAll_kaStart_ticks {s : State} {interval k : Nat} (observer : Bool)
    (hout : s.kaOutstanding = false) (hk : k * s.cfg.tickMs < interval) :
    execAll (.kaStart interval observer :: List.replicate k .tick) s = .next
      { s with kaEnabled := true, kaInterval := interval, kaObserver := observer,
               kaTimer := some (interval - k * s.cfg.tickMs) } := by
  have hpos : interval ≠ 0 := by omega
  exact execAll_of_next (exec_kaStart_of_idle observer hpos hout) (execAll_ticks_of_lt k rfl hk)

/-- Settles O54: the countdown, and then the tick that fires, or KA_STOP and ticks without a wait. -/
theorem probeGoesOutAtTheIntervalsLastTick : Obligations.ProbeGoesOutAtTheIntervalsLastTick := by
  unfold Obligations.ProbeGoesOutAtTheIntervalsLastTick
  intro s interval observer k hl hq hout hcap hk
  have hcount := execAll_kaStart_ticks observer hout hk
  refine ⟨hcount, fun hlast => ?_, fun j => ?_⟩
  · have hfire : interval - k * s.cfg.tickMs ≤ s.cfg.tickMs := by
      rw [Nat.succ_mul] at hlast
      omega
    have hroom : s.roomInQueue := by
      rw [State.roomInQueue, hq]
      exact hcap
    rw [List.replicate_succ', ← List.cons_append, execAll_append_of_next _ hcount]
    exact execAll_cons_of_next (rest := []) (exec_tick_fires rfl hfire hl hroom hq)
  · rw [← List.cons_append, execAll_append_of_next _ hcount]
    exact (execAll_cons_of_next rfl).trans (execAll_ticks_of_none j rfl)

end Sys2Proof.Machine
end

section
/-! The pure operations and RESET (spec/41_codec.md, spec/70_reset_and_hazards.md section 1), and which
operations are refused (spec/60_exceptions.md R159). -/

namespace Sys2Proof.Machine

theorem exec_decode (buf : List Byte) (s : State) :
    exec (.decode buf) s = .next { s with ret := some (retOfDecode (decodeFrame buf)) } := rfl

/-- Settles O17: each answers by definition, DECODE by its three results. -/
theorem pureOperationsAnswerTheirValue : Obligations.PureOperationsAnswerTheirValue := by
  unfold Obligations.PureOperationsAnswerTheirValue
  intro s bytes addr func reg value
  refine ⟨rfl, rfl, rfl, rfl, rfl, rfl, rfl, fun h => ?_, fun len h => ?_, fun m len h => ?_⟩ <;>
    rw [exec_decode, h] <;> rfl

/-- Settles O1: the reset table's values and the default configuration, by evaluation. -/
theorem resetStateHoldsSpecValues : Obligations.ResetStateHoldsSpecValues := by
  unfold Obligations.ResetStateHoldsSpecValues
  decide

/-- Settles O2: RESET's answer is the reset table under the configuration, by definition. -/
theorem resetEventRestoresState : Obligations.ResetEventRestoresState := by
  unfold Obligations.ResetEventRestoresState
  exact fun s => rfl

/-- A submission is refused for a full queue of an open session, and for nothing else (R159 d). -/
theorem answer_of_submits {i : Instr} {s s' : State} {c : Command} (h : Submits s i s' c)
    (hr : refusalOf i s =
      if s.linkUp = true ∧ s.cfg.queueCap = some s.queue.length then some .queueFull else none) :
    (refusalOf i s = none ∧ ∃ t, exec i s = .next t) ∨
      ∃ r, refusalOf i s = some r ∧ exec i s = .refused r := by
  rw [hr, exec_of_submits h]
  obtain ⟨timer, outstanding, rfl⟩ := h.prepared
  rcases submit_cases c.frame c.kind c.reg c.value c.origin
      { s with kaTimer := timer, kaOutstanding := outstanding } with
    ⟨hl, hs⟩ | ⟨hl, hfull, hs⟩ | ⟨-, hroom, hs⟩
  · have hdown : ¬ s.linkUp = true := by simpa using hl
    exact .inl ⟨if_neg fun ⟨hup, _⟩ => hdown hup, _, hs⟩
  · exact .inr ⟨_, if_pos ⟨hl, hfull⟩, hs⟩
  · exact .inl ⟨if_neg fun ⟨_, hfull⟩ => hroom hfull, _, hs⟩

/-- Every operation is refused as `refusalOf` says, or completes. -/
theorem exec_answer (i : Instr) (s : State) :
    (refusalOf i s = none ∧ ∃ t, exec i s = .next t) ∨
      ∃ r, refusalOf i s = some r ∧ exec i s = .refused r := by
  cases i with
  | connect addr =>
    cases hl : s.linkUp with
    | false => exact .inl ⟨by simp [refusalOf, hl], _, by rw [exec_connect, hl]; rfl⟩
    | true =>
      exact .inr ⟨.connectWhileConnected, by simp [refusalOf, hl], by rw [exec_connect, hl]; rfl⟩
  | kaStart interval observer =>
    by_cases hpos : interval = 0
    · rw [hpos]
      exact .inr ⟨_, rfl, rfl⟩
    · exact .inl ⟨if_neg hpos, _, exec_kaStart_of_pos observer s hpos⟩
  | tick =>
    cases htimer : s.kaTimer with
    | none => exact .inl ⟨by simp [refusalOf, htimer], _, exec_tick_of_none htimer⟩
    | some n =>
      by_cases hn : n ≤ s.cfg.tickMs
      · exact answer_of_submits (.tick n htimer hn) (by simp [refusalOf, htimer, hn])
      · exact .inl ⟨by simp [refusalOf, htimer, hn], _, exec_tick_of_lt htimer (by omega)⟩
  | read reg hd => exact answer_of_submits (.read reg hd) rfl
  | write reg value hd => exact answer_of_submits (.write reg value hd) rfl
  | submit frame kind reg value origin =>
    exact answer_of_submits (.submit frame kind reg value origin) rfl
  | kaFire => exact answer_of_submits .kaFire rfl
  | _ => exact .inl ⟨rfl, _, rfl⟩

/-- Settles O56: the two answers of `exec_answer` exclude each other and a fault. -/
theorem operationsAreRefusedExactlyAsListed : Obligations.OperationsAreRefusedExactlyAsListed := by
  unfold Obligations.OperationsAreRefusedExactlyAsListed
  intro i s
  obtain ⟨hr, t, he⟩ | ⟨r, hr, he⟩ := exec_answer i s <;> rw [hr, he]
  · exact ⟨nofun, by simp, fun _ => ⟨t, rfl⟩⟩
  · exact ⟨nofun, by simp, nofun⟩

end Sys2Proof.Machine
end

section
/-! Handles are opaque (spec/10_state.md section 4, decision D3): each shared operation commutes with
any renaming of handles, because none of them reads one. -/

namespace Sys2Proof.Machine

/-- A Command with its origin's handle renamed. -/
def renameCommand (f : Handle → Handle) (c : Command) : Command :=
  { c with origin := Origin.rename f c.origin }

/-- An answer with the handles of its state renamed. -/
def renameAnswer (f : Handle → Handle) :
    Host.Outcome State Fault Refusal → Host.Outcome State Fault Refusal
  | .next t => .next (t.rename f)
  | .fault r => .fault r
  | .refused r => .refused r

section
variable (f : Handle → Handle)

theorem rename_queue (s : State) : (s.rename f).queue = s.queue.map (renameCommand f) := rfl

theorem rename_emit (e : OutEvent) (s : State) :
    emit (e.rename f) (s.rename f) = (emit e s).rename f := by
  simp [emit, State.rename]

theorem rename_kaDone (o : CmdOutcome) (s : State) :
    kaDone o (s.rename f) = (kaDone o s).rename f := by
  rw [kaDone_eq, kaDone_eq]
  cases hobs : s.kaObserver <;> simp [State.rename, OutEvent.rename, hobs]

theorem rename_deliver (g : Origin) (o : CmdOutcome) (s : State) :
    deliver (Origin.rename f g) o (s.rename f) = (deliver g o s).rename f := by
  cases g with
  | caller h => exact rename_emit f (.resolve h o) s
  | keepalive => exact rename_kaDone f o s

theorem rename_busy (s : State) : (s.rename f).busy = s.busy := by
  rw [State.busy, rename_queue, List.any_map]
  rfl

theorem rename_transmit (s : State) : transmit (s.rename f) = (transmit s).rename f := by
  rw [transmit_eq, transmit_eq, rename_busy]
  cases s.busy with
  | true => rfl
  | false =>
    rw [rename_queue]
    cases hq : s.queue with
    | nil => rfl
    | cons c rest => simp [State.rename, OutEvent.rename, renameCommand]

/-- Which Command is taken does not depend on the handles. -/
theorem takeInFlight_map_rename (q : List Command) :
    takeInFlight (q.map (renameCommand f)) =
      (takeInFlight q).map fun r => (renameCommand f r.1, r.2.map (renameCommand f)) := by
  induction q with
  | nil => rfl
  | cons c q ih =>
    rw [List.map_cons, takeInFlight, takeInFlight]
    have hst : (renameCommand f c).st = c.st := rfl
    rw [hst]
    split
    · rfl
    · rw [ih, Option.map_map, Option.map_map]
      rfl

theorem rename_onMessage (m : Message) (s : State) :
    onMessage m (s.rename f) = (onMessage m s).rename f := by
  rw [onMessage, onMessage, rename_queue, takeInFlight_map_rename]
  cases takeInFlight s.queue with
  | none => exact rename_emit f (.log (.unsolicited m)) s
  | some r =>
    rw [Option.map_some]
    simp only
    rw [← rename_transmit, ← rename_deliver]
    rfl

theorem rename_submit (frame : List Byte) (kind : CmdKind) (reg value : Half) (origin : Origin)
    (s : State) :
    submit frame kind reg value (Origin.rename f origin) (s.rename f) =
      renameAnswer f (submit frame kind reg value origin s) := by
  have hfull : (s.rename f).queueFull = s.queueFull := by
    rw [State.queueFull, State.queueFull, rename_queue, List.length_map]
    rfl
  have hlink : (s.rename f).linkUp = s.linkUp := rfl
  rw [submit, submit, hfull, hlink]
  split
  · exact congrArg Host.Outcome.next (rename_deliver f origin _ s)
  · split
    · rfl
    · rw [renameAnswer, ← rename_transmit]
      simp [State.rename]

theorem rename_linkLoss (s : State) : linkLoss (s.rename f) = (linkLoss s).rename f := by
  have hall (o : CmdOutcome) (q : List Command) (u : State) :
      deliverAll o (q.map (renameCommand f)) (u.rename f) = (deliverAll o q u).rename f := by
    induction q generalizing u with
    | nil => rfl
    | cons c q ih =>
      rw [List.map_cons, deliverAll, deliverAll, ← ih, ← rename_deliver]
      rfl
  have hlink : (s.rename f).linkUp = s.linkUp := rfl
  rw [linkLoss, linkLoss, hlink]
  split
  · rfl
  · exact hall _ s.queue
      { s with kaEnabled := false, kaTimer := none, queue := [], rxBuf := [], linkUp := false }

theorem rename_drain (s : State) : drain (s.rename f) = (drain s).rename f := by
  have hbuf (u : State) : (u.rename f).rxBuf = u.rxBuf := rfl
  induction s using drain_recursion with
  | hstop s h => rw [drain_needMoreBytes h, drain_needMoreBytes ((hbuf s).symm ▸ h)]
  | hbad s len h ih =>
    rw [drain_crcError h, drain_crcError ((hbuf s).symm ▸ h), ← ih]
    simp [State.rename, OutEvent.rename]
  | hgood s m len h ih =>
    rw [drain_message h, drain_message ((hbuf s).symm ▸ h), ← ih, ← rename_onMessage]
    rfl

theorem rename_receive (bs : List Byte) (s : State) :
    receive bs (s.rename f) = (receive bs s).rename f := by
  rcases receive_cases bs s with ⟨hl, hr⟩ | ⟨hl, hover, hr⟩ | ⟨hl, hroom, hr⟩ <;> rw [hr]
  · exact receive_of_linkDown (s := s.rename f) hl
  · exact receive_of_overflow (s := s.rename f) hl hover
  · rw [receive_of_room (s := s.rename f) hl hroom, ← rename_drain]
    rfl

/-- A submission of a renamed operation submits the renamed Command. -/
theorem Submits.renamed {i : Instr} {s s' : State} {c : Command} (h : Submits s i s' c) :
    Submits (s.rename f) (Instr.rename f i) (s'.rename f) (renameCommand f c) := by
  cases h with
  | read reg hd => exact .read (s := s.rename f) reg (f hd)
  | write reg value hd => exact .write (s := s.rename f) reg value (f hd)
  | tick n htimer hn => exact .tick (s := s.rename f) n htimer hn
  | kaFire => exact .kaFire (s := s.rename f)
  | submit frame kind reg value origin =>
    exact .submit (s := s.rename f) frame kind reg value (Origin.rename f origin)

theorem rename_exec_of_submits {i : Instr} {s s' : State} {c : Command} (h : Submits s i s' c) :
    exec (Instr.rename f i) (s.rename f) = renameAnswer f (exec i s) := by
  rw [exec_of_submits h, exec_of_submits (h.renamed f)]
  exact rename_submit f c.frame c.kind c.reg c.value c.origin s'

theorem rename_exec (i : Instr) (s : State) :
    exec (Instr.rename f i) (s.rename f) = renameAnswer f (exec i s) := by
  have hnext {t u : State} (h : t = u.rename f) :
      Host.Outcome.next t = renameAnswer f (.next u) := congrArg _ h
  cases i with
  | rdrsp addr data crc => exact hnext (rename_receive f (rdrspBytes addr data crc) s)
  | wrrsp addr reg value crc => exact hnext (rename_receive f (wrrspBytes addr reg value crc) s)
  | rx chunk => exact hnext (rename_receive f chunk s)
  | disconnect | transportFail => exact hnext (rename_linkLoss f s)
  | read reg hd => exact rename_exec_of_submits f (.read reg hd)
  | write reg value hd => exact rename_exec_of_submits f (.write reg value hd)
  | submit frame kind reg value origin =>
    exact rename_exec_of_submits f (.submit frame kind reg value origin)
  | kaFire => exact rename_exec_of_submits f .kaFire
  | tick =>
    cases htimer : s.kaTimer with
    | none => rw [exec_tick_of_none htimer]; exact exec_tick_of_none (s := s.rename f) htimer
    | some n =>
      by_cases hn : n ≤ s.cfg.tickMs
      · exact rename_exec_of_submits f (.tick n htimer hn)
      · rw [exec_tick_of_lt htimer (by omega)]
        exact exec_tick_of_lt (s := s.rename f) htimer (Nat.lt_of_not_le hn)
  | connect addr =>
    have hlink : (s.rename f).linkUp = s.linkUp := rfl
    change exec (.connect addr) (s.rename f) = _
    rw [exec_connect, exec_connect, hlink]
    cases s.linkUp <;> rfl
  | kaStart interval observer =>
    by_cases hpos : interval = 0
    · rw [hpos]; rfl
    · rw [exec_kaStart_of_pos observer s hpos]
      refine (exec_kaStart_of_pos observer (s.rename f) hpos).trans (hnext ?_)
      rfl
  | deliver origin o => exact hnext (rename_deliver f origin o s)
  | transmit => exact hnext (rename_transmit f s)
  | onMessage m => exact hnext (rename_onMessage f m s)
  | kaDone o => exact hnext (rename_kaDone f o s)
  | reset | kaStop => rfl
  | rdreq | wrreq | probe | crc | encRd | encWr | encProbe | decode => rfl

end

/-- Settles O59, by `rename_exec`. -/
theorem handlesAreOpaque : Obligations.HandlesAreOpaque := by
  unfold Obligations.HandlesAreOpaque
  intro f i s
  rw [rename_exec]
  cases exec i s <;> rfl

end Sys2Proof.Machine
end

section
/-! Only known frames are encoded (spec/30_encoding.md R68): what the queue holds, what is transmitted
and what is answered is a frame of ENC_RD, ENC_WR or the configured probe. -/

namespace Sys2Proof.Machine

/-! The outbound port. -/

/-- A well-formed outbound instruction encodes a frame the block can build. -/
theorem builtUnder_encode {c : Config} {i : Instr} (hport : i.port = some .outbound)
    (hwf : i.wf c = true) : builtUnder c (encode i) := by
  cases i with
  | rdreq addr reg => exact .inl ⟨addr, reg, rfl⟩
  | wrreq addr reg value => exact .inr (.inl ⟨addr, reg, value, rfl⟩)
  | probe addr func reg value =>
    simp only [Instr.wf, Config.isProbe, Bool.and_eq_true, decide_eq_true_eq] at hwf
    obtain ⟨⟨rfl, rfl⟩, rfl⟩ := hwf
    exact .inr (.inr ⟨addr, rfl⟩)
  | _ => cases hport

theorem builtUnder_of_decodeOutbound {c : Config} {bs : List Byte} {i : Instr}
    (h : decodeOutbound bs = .instr i) (hwf : i.wf c = true) : builtUnder c bs := by
  obtain ⟨hport, hbytes⟩ := encode_of_decodeOutbound h
  exact hbytes ▸ builtUnder_encode hport hwf

/-- Decoded input is decoded bits that passed the guard. -/
theorem decode_of_decodeInput {p : Port} {bs : List Byte} {i : Instr}
    (h : decodeInput (.bits p bs) = .instr i) : decode p bs = .instr i := by
  rw [decodeInput] at h
  cases hd : decode p bs with
  | reject r => rw [hd] at h; cases h
  | instr j =>
    rw [hd] at h
    simp only at h
    split at h <;> cases h
    rfl

/-- Bytes the block cannot build are refused on the outbound port. -/
theorem step_refuses_unbuilt {s : State} {bs : List Byte} {rest : List Input}
    (hin : s.inputs = .bits .outbound bs :: rest) (h : ¬ builtUnder s.cfg bs) :
    ∃ why, step s = .refused (.input why) := by
  cases hd : decodeInput (.bits .outbound bs) with
  | reject r => exact ⟨r, step_of_reject hin hd⟩
  | instr i =>
    cases hwf : i.wf s.cfg with
    | false => exact ⟨.illFormed, step_of_illFormed hin hd hwf⟩
    | true => exact absurd (builtUnder_of_decodeOutbound (decode_of_decodeInput hd) hwf) h

theorem function_of_builtUnder {c : Config} {f : List Byte} (h : builtUnder c f) :
    byteAt f 1 = 0x03 ∨ byteAt f 1 = 0x06 ∨ byteAt f 1 = c.kaFunc := by
  rcases h with ⟨addr, reg, rfl⟩ | ⟨addr, reg, value, rfl⟩ | ⟨addr, rfl⟩
  · exact .inl rfl
  · exact .inr (.inl rfl)
  · exact .inr (.inr rfl)

/-! The queue and the transmitter. -/

/-- Every frame in the queue is one the block can build. -/
def queueBuilt (c : Config) (s : State) : Prop := ∀ d ∈ s.queue, builtUnder c d.frame

/-- If this event is a transmission, then of a frame the block can build. -/
def sendsBuilt (c : Config) (e : OutEvent) : Prop := ∀ f, e = .tx f → builtUnder c f

/-- The queue stays built, and only such frames have been sent since. -/
def keepsBuilt (c : Config) (s t : State) : Prop := queueBuilt c t ∧ Emits (sendsBuilt c) s t

section
variable {c : Config}

theorem queueBuilt_of_frames {s t : State}
    (hsub : (t.queue.map Command.frame).Sublist (s.queue.map Command.frame)) (h : queueBuilt c s) :
    queueBuilt c t :=
  forall_frame_of_sublist hsub h

theorem keepsBuilt_same {s t : State} (h : queueBuilt c s) (hq : t.queue = s.queue)
    (ho : t.out = s.out) : keepsBuilt c s t :=
  ⟨by rwa [queueBuilt, hq], emits_nothing ho⟩

theorem keepsBuilt.trans {s t u : State} (h : keepsBuilt c s t) (h' : keepsBuilt c t u) :
    keepsBuilt c s u := by
  obtain ⟨-, hsent⟩ := h
  obtain ⟨hqueue, hsent'⟩ := h'
  exact ⟨hqueue, hsent.trans hsent'⟩

theorem sendsBuilt_of_outcome {o : CmdOutcome} (e : OutEvent) (he : e.outcome? = some o) :
    sendsBuilt c e := by
  rintro f rfl
  cases he

theorem keepsBuilt_transmit {s : State} (h : queueBuilt c s) : keepsBuilt c s (transmit s) := by
  refine ⟨queueBuilt_of_frames (by rw [frames_transmit]) h, ?_⟩
  cases hb : s.busy with
  | true => exact emits_nothing (by rw [transmit_of_busy hb])
  | false =>
    rw [transmit_promotes ((busy_eq_false s).1 hb)]
    refine ⟨_, rfl, fun e he f hf => ?_⟩
    obtain ⟨d, hd, rfl⟩ := List.mem_map.1 he
    cases hf
    exact h d (List.mem_of_mem_head? (Option.mem_toList.1 hd))

theorem keepsBuilt_deliver {s : State} (g : Origin) (o : CmdOutcome) (h : queueBuilt c s) :
    keepsBuilt c s (deliver g o s) :=
  ⟨by rwa [queueBuilt, deliver_queue], emits_deliver sendsBuilt_of_outcome g s⟩

theorem keepsBuilt_onMessage {s : State} (m : Message) (h : queueBuilt c s) :
    keepsBuilt c s (onMessage m s) := by
  rcases onMessage_cases m s with ⟨before, d, after, hq, -, -, hm⟩ | ⟨-, hm⟩ <;> rw [hm]
  · have hrest : queueBuilt c { s with queue := before ++ after } := by
      refine queueBuilt_of_frames (List.Sublist.map _ ?_) h
      rw [hq]
      exact List.Sublist.append_left (List.sublist_cons_self d after) before
    obtain ⟨hqueue, hsent⟩ := keepsBuilt_deliver d.origin (.ok m.value) hrest
    exact keepsBuilt.trans ⟨hqueue, hsent⟩ (keepsBuilt_transmit hqueue)
  · exact ⟨h, emits_one rfl nofun⟩

theorem keepsBuilt_receive {s : State} (bs : List Byte) (h : queueBuilt c s) :
    keepsBuilt c s (receive bs s) := by
  rcases receive_cases bs s with ⟨-, hr⟩ | ⟨-, -, hr⟩ | ⟨-, -, hr⟩ <;> rw [hr]
  · exact keepsBuilt_same h rfl rfl
  · exact keepsBuilt_same h rfl rfl
  · refine drain_induction (P := keepsBuilt c s) (fun u len hu _ => ?_) (fun u m len hu _ => ?_) _
      (keepsBuilt_same h rfl rfl)
    · obtain ⟨hqueue, hsent⟩ := hu
      exact ⟨hqueue, hsent.trans (emits_one rfl nofun)⟩
    · obtain ⟨hqueue, hsent⟩ := hu
      exact keepsBuilt.trans ⟨hqueue, hsent⟩
        (keepsBuilt_onMessage (s := { u with rxBuf := u.rxBuf.drop len }) m hqueue)

theorem keepsBuilt_linkLoss {s : State} (h : queueBuilt c s) : keepsBuilt c s (linkLoss s) := by
  refine ⟨?_, emits_linkLoss fun _ => sendsBuilt_of_outcome⟩
  cases hl : s.linkUp with
  | false => rwa [linkLoss_of_linkDown hl]
  | true => rw [linkLoss_of_linkUp hl]; exact nofun

/-- READ, WRITE and the keepalive submit frames the block can build. -/
theorem Submits.built {i : Instr} {s s' : State} {d : Command} (h : Submits s i s' d)
    (hi : ∀ f k r v o, i ≠ .submit f k r v o) : builtUnder s.cfg d.frame := by
  cases h with
  | read reg hd => exact .inl ⟨_, _, rfl⟩
  | write reg value hd => exact .inr (.inl ⟨_, _, _, rfl⟩)
  | tick | kaFire => exact .inr (.inr ⟨_, rfl⟩)
  | submit frame kind reg value origin => exact absurd rfl (hi frame kind reg value origin)

/-- Every operation but SUBMIT keeps the queue built, and transmits only such frames; RESET starts the
output anew. -/
theorem keepsBuilt_effect {i : Instr} {s t : State} (hi : ∀ f k r v o, i ≠ .submit f k r v o)
    (h : queueBuilt s.cfg s) (he : Effect s i t) :
    keepsBuilt s.cfg s t ∨ (t.queue = [] ∧ t.out = []) := by
  cases he with
  | resets => exact .inr ⟨rfl, rfl⟩
  | receives i bs hbs => exact .inl (keepsBuilt_receive bs h)
  | closes i hclose => exact .inl (keepsBuilt_linkLoss h)
  | failsAtOnce i s' d hsub hl =>
    obtain ⟨timer, outstanding, rfl⟩ := hsub.prepared
    exact .inl (keepsBuilt_deliver
      (s := { s with kaTimer := timer, kaOutstanding := outstanding }) d.origin _ h)
  | enqueues i s' d hsub hl hroom =>
    have hnew := hsub.built hi
    obtain ⟨timer, outstanding, rfl⟩ := hsub.prepared
    refine .inl (keepsBuilt_transmit (s := { s with queue := s.queue ++ [d], kaTimer := timer,
                                                    kaOutstanding := outstanding }) fun e he => ?_)
    rcases List.mem_append.1 he with he | he
    · exact h e he
    · exact List.mem_singleton.1 he ▸ hnew
  | delivers origin o => exact .inl (keepsBuilt_deliver origin o h)
  | transmits => exact .inl (keepsBuilt_transmit h)
  | takesMessage m => exact .inl (keepsBuilt_onMessage m h)
  | reports o => exact .inl (keepsBuilt_deliver .keepalive o h)
  | answers | opens | starts | stops | idles | waits => exact .inl (keepsBuilt_same h rfl rfl)

end

/-- A frame in `ret` was there before, or the block can build it. -/
theorem ret_effect {i : Instr} {s t : State} (he : Effect s i t) (f : List Byte)
    (hf : t.ret = some (.frame f)) : s.ret = some (.frame f) ∨ builtUnder s.cfg f := by
  cases he with
  | answers i r hport hr =>
    cases hf
    exact .inr (hr f rfl)
  | resets => cases hf
  | receives i bs hbs =>
    obtain ⟨-, -, -, -, hret, -⟩ := receive_frame (rfl : receive bs s = _)
    exact .inl (hret ▸ hf)
  | closes i hclose =>
    cases hl : s.linkUp with
    | false => rw [linkLoss_of_linkDown hl] at hf; exact .inl hf
    | true => rw [linkLoss_of_linkUp hl] at hf; exact .inl hf
  | failsAtOnce i s' d hsub hl =>
    obtain ⟨timer, outstanding, rfl⟩ := hsub.prepared
    exact .inl (by simpa using hf)
  | enqueues i s' d hsub hl hroom =>
    obtain ⟨timer, outstanding, rfl⟩ := hsub.prepared
    exact .inl (by simpa using hf)
  | delivers | transmits | takesMessage | reports => exact .inl (by simpa using hf)
  | opens | starts | stops | idles | waits => exact .inl hf

/-- The frames sent later are those sent before and those emitted since. -/
theorem mem_txFrames_of_emits {c : Config} {s t : State} {f : List Byte}
    (h : Emits (sendsBuilt c) s t) (hf : f ∈ txFrames t.out) :
    f ∈ txFrames s.out ∨ builtUnder c f := by
  obtain ⟨es, hes, hbuilt⟩ := h
  rw [hes, txFrames_append, List.mem_append] at hf
  refine hf.imp_right fun hnew => ?_
  obtain ⟨e, he, htx⟩ := List.mem_filterMap.1 hnew
  cases e with
  | tx g => cases htx; exact hbuilt _ he f rfl
  | resolve | kaResult | log => cases htx

/-- Settles O60: the outbound port by decoding, the rest by `keepsBuilt_effect` and `ret_effect`. -/
theorem onlyKnownFramesAreEncoded : Obligations.OnlyKnownFramesAreEncoded := by
  unfold Obligations.OnlyKnownFramesAreEncoded
  refine ⟨fun c bs i h => builtUnder_of_decodeOutbound h, fun s bs rest => step_refuses_unbuilt,
    fun c f => function_of_builtUnder, fun i s t hi hqueue he => ?_⟩
  have heffect := exec_effect he
  obtain ⟨hcfg, -⟩ := writers_effect heffect
  rw [hcfg]
  obtain ⟨hkept, hsent⟩ | ⟨hempty, hsilent⟩ := keepsBuilt_effect hi hqueue heffect
  · exact ⟨hkept, fun f => mem_txFrames_of_emits hsent, ret_effect heffect⟩
  · rw [hempty, hsilent]
    exact ⟨nofun, nofun, ret_effect heffect⟩

end Sys2Proof.Machine
end
